-- ==== Sys2Proof/Word.lean ====
section
/-! DEFINITION. The word types of the CHIP-8 core: `00_scope.md` R10 (a byte is 8 bits, a word is 16 bits, every
value is unsigned) and R12 (the operand widths). -/

namespace Sys2Proof

/-- A byte: 8 bits, unsigned (R10). General registers, memory cells and timers hold one. -/
abbrev Byte := BitVec 8

/-- A word: 16 bits, unsigned (R10). `pc`, `I`, stack entries and instruction words hold one. -/
abbrev Word := BitVec 16

/-- A register index, the 4-bit operand `x` or `y` (R12, R20): 0x0 to 0xF names V0 to VF. -/
abbrev Reg := BitVec 4

/-- A key index, 0x0 to 0xF (R33, R255). -/
abbrev Key := BitVec 4

/-- A sprite's row count, the 4-bit operand `n` (R12). -/
abbrev RowCount := BitVec 4

/-- The 12-bit address operand `addr`, written `nnn` in encodings (R12). -/
abbrev Addr := BitVec 12

end Sys2Proof
end

