-- ==== Sys2Proof/Syntax.lean ====
section
/-! DEFINITION. The instructions: one constructor per row of `spec/opcode_table.json` (R2, R16, R74), in the table's
order. Operands have exactly the widths of R12 and R73, so an ill-formed operand cannot be written. -/

namespace Sys2Proof

/-- The 34 instructions of the core (R74). The docstrings give the spec's name and the rule of the meaning. -/
inductive Instr where
  /-- `CLS` (R170). -/
  | cls
  /-- `RET` (R121). -/
  | ret
  /-- `JP addr` (R122). -/
  | jp (nnn : Addr)
  /-- `CALL addr` (R123). -/
  | call (nnn : Addr)
  /-- `SE Vx,byte` (R124). -/
  | seByte (x : Reg) (kk : Byte)
  /-- `SNE Vx,byte` (R125). -/
  | sneByte (x : Reg) (kk : Byte)
  /-- `SE Vx,Vy` (R126). -/
  | seReg (x y : Reg)
  /-- `LD Vx,byte` (R140). -/
  | ldByte (x : Reg) (kk : Byte)
  /-- `ADD Vx,byte` (R141). -/
  | addByte (x : Reg) (kk : Byte)
  /-- `LD Vx,Vy` (R142). -/
  | ldReg (x y : Reg)
  /-- `OR Vx,Vy` (R143). -/
  | orReg (x y : Reg)
  /-- `AND Vx,Vy` (R144). -/
  | andReg (x y : Reg)
  /-- `XOR Vx,Vy` (R145). -/
  | xorReg (x y : Reg)
  /-- `ADD Vx,Vy` (R146). -/
  | addReg (x y : Reg)
  /-- `SUB Vx,Vy` (R147). -/
  | subReg (x y : Reg)
  /-- `SHR Vx {,Vy}` (R148). -/
  | shr (x y : Reg)
  /-- `SUBN Vx,Vy` (R149). -/
  | subnReg (x y : Reg)
  /-- `SHL Vx {,Vy}` (R150). -/
  | shl (x y : Reg)
  /-- `SNE Vx,Vy` (R127). -/
  | sneReg (x y : Reg)
  /-- `LD I,addr` (R190). -/
  | ldI (nnn : Addr)
  /-- `JP V0,addr` (R128). -/
  | jpV0 (nnn : Addr)
  /-- `RND Vx,byte` (R151). -/
  | rnd (x : Reg) (kk : Byte)
  /-- `DRW Vx,Vy,n` (R171). -/
  | drw (x y : Reg) (n : RowCount)
  /-- `SKP Vx` (R211). -/
  | skp (x : Reg)
  /-- `SKNP Vx` (R212). -/
  | sknp (x : Reg)
  /-- `LD Vx,DT` (R213). -/
  | ldVxDT (x : Reg)
  /-- `LD Vx,K` (R216). -/
  | ldVxK (x : Reg)
  /-- `LD DT,Vx` (R214). -/
  | ldDTVx (x : Reg)
  /-- `LD ST,Vx` (R215). -/
  | ldSTVx (x : Reg)
  /-- `ADD I,Vx` (R191). -/
  | addIVx (x : Reg)
  /-- `LD F,Vx` (R192). -/
  | ldFVx (x : Reg)
  /-- `LD B,Vx` (R193). -/
  | ldBVx (x : Reg)
  /-- `LD [I],Vx` (R194). -/
  | ldMemVx (x : Reg)
  /-- `LD Vx,[I]` (R195). -/
  | ldVxMem (x : Reg)
deriving DecidableEq, Repr

end Sys2Proof
end

