-- ==== Sys2Proof/WellFormed.lean ====
section
/-! DEFINITION. What makes an instruction word well-formed: it matches a row of the opcode table (R74, R75: every fixed
digit must match), and what makes an instruction well-formed: nothing beyond its type, since the operand types of
`Syntax.lean` have exactly the widths of R73 ("every value of a 4-bit field names a register, so no register operand is
illegal"). -/

namespace Sys2Proof

/-- One row of the opcode map of R74, as `spec/opcode_table.json` lists it: a word `w` is of this row when
`w AND mask = pat`. -/
structure OpRow where
  /-- The row's mnemonic in the table. -/
  mnemonic : String
  /-- The fixed digits. -/
  pat : Word
  /-- 1 bits where R75 fixes a digit. -/
  mask : Word
deriving DecidableEq, Repr

/-- The rows of op 0 to 7 (R74). -/
def opRowsFixedToSeven : List OpRow := [
  ⟨"CLS", 0x00E0#16, 0xFFFF#16⟩,
  ⟨"RET", 0x00EE#16, 0xFFFF#16⟩,
  ⟨"JP_addr", 0x1000#16, 0xF000#16⟩,
  ⟨"CALL_addr", 0x2000#16, 0xF000#16⟩,
  ⟨"SE_Vx_byte", 0x3000#16, 0xF000#16⟩,
  ⟨"SNE_Vx_byte", 0x4000#16, 0xF000#16⟩,
  ⟨"SE_Vx_Vy", 0x5000#16, 0xF00F#16⟩,
  ⟨"LD_Vx_byte", 0x6000#16, 0xF000#16⟩,
  ⟨"ADD_Vx_byte", 0x7000#16, 0xF000#16⟩]

/-- The rows of op 8 and 9 (R74). -/
def opRowsEightNine : List OpRow := [
  ⟨"LD_Vx_Vy", 0x8000#16, 0xF00F#16⟩,
  ⟨"OR_Vx_Vy", 0x8001#16, 0xF00F#16⟩,
  ⟨"AND_Vx_Vy", 0x8002#16, 0xF00F#16⟩,
  ⟨"XOR_Vx_Vy", 0x8003#16, 0xF00F#16⟩,
  ⟨"ADD_Vx_Vy", 0x8004#16, 0xF00F#16⟩,
  ⟨"SUB_Vx_Vy", 0x8005#16, 0xF00F#16⟩,
  ⟨"SHR_Vx___Vy", 0x8006#16, 0xF00F#16⟩,
  ⟨"SUBN_Vx_Vy", 0x8007#16, 0xF00F#16⟩,
  ⟨"SHL_Vx___Vy", 0x800E#16, 0xF00F#16⟩,
  ⟨"SNE_Vx_Vy", 0x9000#16, 0xF00F#16⟩]

/-- The rows of op A to E (R74). -/
def opRowsAToE : List OpRow := [
  ⟨"LD_I_addr", 0xA000#16, 0xF000#16⟩,
  ⟨"JP_V0_addr", 0xB000#16, 0xF000#16⟩,
  ⟨"RND_Vx_byte", 0xC000#16, 0xF000#16⟩,
  ⟨"DRW_Vx_Vy_n", 0xD000#16, 0xF000#16⟩,
  ⟨"SKP_Vx", 0xE09E#16, 0xF0FF#16⟩,
  ⟨"SKNP_Vx", 0xE0A1#16, 0xF0FF#16⟩]

/-- The rows of op F (R74). -/
def opRowsF : List OpRow := [
  ⟨"LD_Vx_DT", 0xF007#16, 0xF0FF#16⟩,
  ⟨"LD_Vx_K", 0xF00A#16, 0xF0FF#16⟩,
  ⟨"LD_DT_Vx", 0xF015#16, 0xF0FF#16⟩,
  ⟨"LD_ST_Vx", 0xF018#16, 0xF0FF#16⟩,
  ⟨"ADD_I_Vx", 0xF01E#16, 0xF0FF#16⟩,
  ⟨"LD_F_Vx", 0xF029#16, 0xF0FF#16⟩,
  ⟨"LD_B_Vx", 0xF033#16, 0xF0FF#16⟩,
  ⟨"LD__I__Vx", 0xF055#16, 0xF0FF#16⟩,
  ⟨"LD_Vx__I", 0xF065#16, 0xF0FF#16⟩]

/-- The opcode map of R74, one row per instruction. -/
def opRows : List OpRow := opRowsFixedToSeven ++ opRowsEightNine ++ opRowsAToE ++ opRowsF

/-- A word matches a row when every digit the row fixes is the row's (R75). -/
def OpRow.admits (r : OpRow) (w : Word) : Bool := (w &&& r.mask) == r.pat

/-- A word is well-formed when some row of the table admits it; every other word is an unrecognised opcode (R75). -/
def wordWellFormed (w : Word) : Bool := opRows.any (fun r => r.admits w)

/-- Every instruction is well-formed: R73 leaves no operand value out, and the operand types hold nothing else. -/
def Instr.wellFormed (_ : Instr) : Bool := true

/-- The mnemonic of an instruction's row in `spec/opcode_table.json`. -/
def Instr.mnemonic : Instr → String
  | .cls => "CLS"
  | .ret => "RET"
  | .jp _ => "JP_addr"
  | .call _ => "CALL_addr"
  | .seByte _ _ => "SE_Vx_byte"
  | .sneByte _ _ => "SNE_Vx_byte"
  | .seReg _ _ => "SE_Vx_Vy"
  | .ldByte _ _ => "LD_Vx_byte"
  | .addByte _ _ => "ADD_Vx_byte"
  | .ldReg _ _ => "LD_Vx_Vy"
  | .orReg _ _ => "OR_Vx_Vy"
  | .andReg _ _ => "AND_Vx_Vy"
  | .xorReg _ _ => "XOR_Vx_Vy"
  | .addReg _ _ => "ADD_Vx_Vy"
  | .subReg _ _ => "SUB_Vx_Vy"
  | .shr _ _ => "SHR_Vx___Vy"
  | .subnReg _ _ => "SUBN_Vx_Vy"
  | .shl _ _ => "SHL_Vx___Vy"
  | .sneReg _ _ => "SNE_Vx_Vy"
  | .ldI _ => "LD_I_addr"
  | .jpV0 _ => "JP_V0_addr"
  | .rnd _ _ => "RND_Vx_byte"
  | .drw _ _ _ => "DRW_Vx_Vy_n"
  | .skp _ => "SKP_Vx"
  | .sknp _ => "SKNP_Vx"
  | .ldVxDT _ => "LD_Vx_DT"
  | .ldVxK _ => "LD_Vx_K"
  | .ldDTVx _ => "LD_DT_Vx"
  | .ldSTVx _ => "LD_ST_Vx"
  | .addIVx _ => "ADD_I_Vx"
  | .ldFVx _ => "LD_F_Vx"
  | .ldBVx _ => "LD_B_Vx"
  | .ldMemVx _ => "LD__I__Vx"
  | .ldVxMem _ => "LD_Vx__I"

end Sys2Proof
end

