-- ==== Sys2Proof/Decode.lean ====
section
/-! DEFINITION. The decoder, total on any bytes and rejecting by name, and the encoder written from the same opcode map
(`30_encoding.md` R70 to R75, R77). -/

namespace Sys2Proof

/-- Why bytes do not decode. Safe: a decoder that refuses gives no instruction a meaning the spec does not give. -/
inductive DecodeError where
  /-- Fewer than two bytes were offered; every instruction is exactly one 16-bit word (R70). Only a caller of
  `decodeBytes` can see this: the machine always fetches two bytes (R101). -/
  | truncated
  /-- The word matches no row of R74 (R75, R77): "unrecognised". The step turns it into UnknownOpcode (R106). -/
  | unrecognised (w : Word)
deriving DecidableEq, Repr

/-! ## Fields (R71) -/

/-- `op = w[15:12]`. -/
def fieldOp (w : Word) : BitVec 4 := w.extractLsb' 12 4

/-- `x = w[11:8]`. -/
def fieldX (w : Word) : Reg := w.extractLsb' 8 4

/-- `y = w[7:4]`. -/
def fieldY (w : Word) : Reg := w.extractLsb' 4 4

/-- `n = w[3:0]`. -/
def fieldN (w : Word) : BitVec 4 := w.extractLsb' 0 4

/-- `kk = w[7:0]`. -/
def fieldKK (w : Word) : Byte := w.extractLsb' 0 8

/-- `nnn = w[11:0]`. -/
def fieldNNN (w : Word) : Addr := w.extractLsb' 0 12

/-- The word whose high byte is `hi` and whose low byte is `lo`: the big-endian assembly of R54 and R56. -/
def wordOfBytes (hi lo : Byte) : Word := hi ++ lo

/-- The high byte of a word, bits 15 to 8 (R56). -/
def highByte (w : Word) : Byte := w.extractLsb' 8 8

/-- The low byte of a word, bits 7 to 0 (R56). -/
def lowByte (w : Word) : Byte := w.extractLsb' 0 8

/-! ## Decoding -/

/-- Secondary dispatch of op 0 on the whole word: 00E0 and 00EE, and nothing else (R74, R78). -/
def decodeOp0 (w : Word) : Except DecodeError Instr :=
  if w = 0x00E0#16 then .ok .cls
  else if w = 0x00EE#16 then .ok .ret
  else .error (.unrecognised w)

/-- Secondary dispatch of op 8 on the low nibble (R74). -/
def decodeOp8 (w : Word) : Except DecodeError Instr :=
  match fieldN w with
  | 0x0#4 => .ok (.ldReg (fieldX w) (fieldY w))
  | 0x1#4 => .ok (.orReg (fieldX w) (fieldY w))
  | 0x2#4 => .ok (.andReg (fieldX w) (fieldY w))
  | 0x3#4 => .ok (.xorReg (fieldX w) (fieldY w))
  | 0x4#4 => .ok (.addReg (fieldX w) (fieldY w))
  | 0x5#4 => .ok (.subReg (fieldX w) (fieldY w))
  | 0x6#4 => .ok (.shr (fieldX w) (fieldY w))
  | 0x7#4 => .ok (.subnReg (fieldX w) (fieldY w))
  | 0xE#4 => .ok (.shl (fieldX w) (fieldY w))
  | _ => .error (.unrecognised w)

/-- Secondary dispatch of op E on the low byte (R74). -/
def decodeOpE (w : Word) : Except DecodeError Instr :=
  match fieldKK w with
  | 0x9E#8 => .ok (.skp (fieldX w))
  | 0xA1#8 => .ok (.sknp (fieldX w))
  | _ => .error (.unrecognised w)

/-- Secondary dispatch of op F on the low byte (R74). -/
def decodeOpF (w : Word) : Except DecodeError Instr :=
  match fieldKK w with
  | 0x07#8 => .ok (.ldVxDT (fieldX w))
  | 0x0A#8 => .ok (.ldVxK (fieldX w))
  | 0x15#8 => .ok (.ldDTVx (fieldX w))
  | 0x18#8 => .ok (.ldSTVx (fieldX w))
  | 0x1E#8 => .ok (.addIVx (fieldX w))
  | 0x29#8 => .ok (.ldFVx (fieldX w))
  | 0x33#8 => .ok (.ldBVx (fieldX w))
  | 0x55#8 => .ok (.ldMemVx (fieldX w))
  | 0x65#8 => .ok (.ldVxMem (fieldX w))
  | _ => .error (.unrecognised w)

/-- Decode one instruction word (R74, R103). The word alone decides (R70). The last arm is op F, the one value of the
four bits that the arms above leave. -/
def decodeWord (w : Word) : Except DecodeError Instr :=
  match fieldOp w with
  | 0x0#4 => decodeOp0 w
  | 0x1#4 => .ok (.jp (fieldNNN w))
  | 0x2#4 => .ok (.call (fieldNNN w))
  | 0x3#4 => .ok (.seByte (fieldX w) (fieldKK w))
  | 0x4#4 => .ok (.sneByte (fieldX w) (fieldKK w))
  | 0x5#4 => if fieldN w = 0x0#4 then .ok (.seReg (fieldX w) (fieldY w)) else .error (.unrecognised w)
  | 0x6#4 => .ok (.ldByte (fieldX w) (fieldKK w))
  | 0x7#4 => .ok (.addByte (fieldX w) (fieldKK w))
  | 0x8#4 => decodeOp8 w
  | 0x9#4 => if fieldN w = 0x0#4 then .ok (.sneReg (fieldX w) (fieldY w)) else .error (.unrecognised w)
  | 0xA#4 => .ok (.ldI (fieldNNN w))
  | 0xB#4 => .ok (.jpV0 (fieldNNN w))
  | 0xC#4 => .ok (.rnd (fieldX w) (fieldKK w))
  | 0xD#4 => .ok (.drw (fieldX w) (fieldY w) (fieldN w))
  | 0xE#4 => decodeOpE w
  | _ => decodeOpF w

/-- Decode the first instruction of a byte sequence as memory holds it, high byte first (R54, R70), and return it with
the bytes after it. -/
def decodeBytes : List Byte → Except DecodeError (Instr × List Byte)
  | hi :: lo :: rest =>
    match decodeWord (wordOfBytes hi lo) with
    | .ok i => .ok (i, rest)
    | .error e => .error e
  | _ => .error .truncated

/-! ## Encoding -/

/-- Format `NNN` (R72). -/
def wordNNN (op : BitVec 4) (nnn : Addr) : Word := op ++ nnn

/-- Formats `XKK` and `XSS` (R72). -/
def wordXKK (op : BitVec 4) (x : Reg) (kk : Byte) : Word := (op ++ x) ++ kk

/-- Formats `XY0`, `XYS` and `XYN` (R72). -/
def wordXYN (op : BitVec 4) (x y : Reg) (n : BitVec 4) : Word := ((op ++ x) ++ y) ++ n

/-- The word of an instruction, from the opcode map of R74. -/
def encode : Instr → Word
  | .cls => 0x00E0#16
  | .ret => 0x00EE#16
  | .jp nnn => wordNNN 0x1#4 nnn
  | .call nnn => wordNNN 0x2#4 nnn
  | .seByte x kk => wordXKK 0x3#4 x kk
  | .sneByte x kk => wordXKK 0x4#4 x kk
  | .seReg x y => wordXYN 0x5#4 x y 0x0#4
  | .ldByte x kk => wordXKK 0x6#4 x kk
  | .addByte x kk => wordXKK 0x7#4 x kk
  | .ldReg x y => wordXYN 0x8#4 x y 0x0#4
  | .orReg x y => wordXYN 0x8#4 x y 0x1#4
  | .andReg x y => wordXYN 0x8#4 x y 0x2#4
  | .xorReg x y => wordXYN 0x8#4 x y 0x3#4
  | .addReg x y => wordXYN 0x8#4 x y 0x4#4
  | .subReg x y => wordXYN 0x8#4 x y 0x5#4
  | .shr x y => wordXYN 0x8#4 x y 0x6#4
  | .subnReg x y => wordXYN 0x8#4 x y 0x7#4
  | .shl x y => wordXYN 0x8#4 x y 0xE#4
  | .sneReg x y => wordXYN 0x9#4 x y 0x0#4
  | .ldI nnn => wordNNN 0xA#4 nnn
  | .jpV0 nnn => wordNNN 0xB#4 nnn
  | .rnd x kk => wordXKK 0xC#4 x kk
  | .drw x y n => wordXYN 0xD#4 x y n
  | .skp x => wordXKK 0xE#4 x 0x9E#8
  | .sknp x => wordXKK 0xE#4 x 0xA1#8
  | .ldVxDT x => wordXKK 0xF#4 x 0x07#8
  | .ldVxK x => wordXKK 0xF#4 x 0x0A#8
  | .ldDTVx x => wordXKK 0xF#4 x 0x15#8
  | .ldSTVx x => wordXKK 0xF#4 x 0x18#8
  | .addIVx x => wordXKK 0xF#4 x 0x1E#8
  | .ldFVx x => wordXKK 0xF#4 x 0x29#8
  | .ldBVx x => wordXKK 0xF#4 x 0x33#8
  | .ldMemVx x => wordXKK 0xF#4 x 0x55#8
  | .ldVxMem x => wordXKK 0xF#4 x 0x65#8

/-- The instruction's two bytes as memory holds them, the high byte at the lower address (R54, R56). -/
def encodeBytes (i : Instr) : List Byte := [highByte (encode i), lowByte (encode i)]

/-! ## The opcode table's numbering -/

/-- The instruction word whose bits, numbered as `spec/opcode_table.json` numbers them (bit 0 the least significant bit
of the one 16-bit word), are the low `nbits` bits of `w`; the bits above `nbits` are 0. -/
def tableWord (nbits w : Nat) : Word := BitVec.ofNat 16 (w % 2 ^ nbits)

/-- What the decoder reads from that instruction, laid out as the hardware stores it (big-endian, R56). -/
def decodeTableWord (nbits w : Nat) : Option Instr :=
  match decodeBytes [highByte (tableWord nbits w), lowByte (tableWord nbits w)] with
  | .ok (i, _) => some i
  | .error _ => none

end Sys2Proof
end

