-- ==== Sys2Proof/Config.lean ====
section
/-! DEFINITION. What is fixed for the machine: the sizes of `00_scope.md` R8, the parameters R9 decides (`STACK_DEPTH`,
`FONT_BASE`, `FONT_DATA`), the TYPE of the parameters R9 leaves OPEN, and the free values, which are constants with no
body: `Config.params` (the OPEN parameters of a model instance), `Config.resetNow` (the `now` of the construction
reset) and `Config.nowAt`, `Config.randAt` (the inputs of a step the host has not spelled out). -/

namespace Sys2Proof

/-- `SHIFT_SOURCE` (R9, R152): which register SHR and SHL shift. OPEN: the spec forbids picking one. -/
inductive ShiftSource where
  /-- The shift reads Vx, the register it writes. -/
  | vx
  /-- The shift reads Vy, the second register operand. -/
  | vy
deriving DecidableEq, Repr, Inhabited

/-- `ERROR_POLICY` (R9, R234, R235): what a step error leaves behind. OPEN. -/
inductive ErrorPolicy where
  /-- `Halt`: the core enters Halted(info) (R234). -/
  | halt
  /-- `Continue`: the core stays Running and the next step skips the offending word (R235). -/
  | continueRunning
deriving DecidableEq, Repr, Inhabited

/-- The OPEN parameters of a model instance (R9, R37). They are the model's arguments: `State.params` carries them
and no operation writes it, so a statement about every state is a statement for every choice of them. -/
structure Params where
  /-- `SHIFT_SOURCE`. -/
  shiftSource : ShiftSource
  /-- `ERROR_POLICY`. -/
  errorPolicy : ErrorPolicy
  /-- `TIME_BASE_HZ`: units of `now` per second, a POSITIVE natural number (R9, R241). -/
  timeBaseHz : PNat
deriving DecidableEq, Repr, Inhabited

namespace Config

/-- `MEM_SIZE` (R8): 4096 bytes, addresses 0x000 to 0xFFF. Addresses are reduced modulo this (R52). -/
def memSize : Nat := 4096

/-- `PROGRAM_BASE` (R8, R60): where `load_program` puts the program. -/
def programBase : Nat := 0x200

/-- `PC_RESET` (R8, R38). -/
def pcReset : Word := 0x200#16

/-- `TIMER_HZ` (R8, R242). -/
def timerHz : Nat := 60

/-- `STACK_DEPTH` (R9, R28): decided by the spec (D20), the source's "conventional limit 16". -/
def stackDepth : Nat := 16

/-- `FONT_BASE` (R9, R42): decided by the spec (D6). -/
def fontBase : Nat := 0x000

/-- Bytes of one glyph (R41). -/
def glyphBytes : Nat := 5

/-- `FONT_DATA` (R44), glyphs 0 to 3. -/
def fontData03 : List Byte :=
  [0xF0, 0x90, 0x90, 0x90, 0xF0,  0x20, 0x60, 0x20, 0x20, 0x70,
   0xF0, 0x10, 0xF0, 0x80, 0xF0,  0xF0, 0x10, 0xF0, 0x10, 0xF0]

/-- `FONT_DATA` (R44), glyphs 4 to 7. -/
def fontData47 : List Byte :=
  [0x90, 0x90, 0xF0, 0x10, 0x10,  0xF0, 0x80, 0xF0, 0x10, 0xF0,
   0xF0, 0x80, 0xF0, 0x90, 0xF0,  0xF0, 0x10, 0x20, 0x40, 0x40]

/-- `FONT_DATA` (R44), glyphs 8 to B. -/
def fontData8B : List Byte :=
  [0xF0, 0x90, 0xF0, 0x90, 0xF0,  0xF0, 0x90, 0xF0, 0x10, 0xF0,
   0xF0, 0x90, 0xF0, 0x90, 0x90,  0xE0, 0x90, 0xE0, 0x90, 0xE0]

/-- `FONT_DATA` (R44), glyphs C to F. -/
def fontDataCF : List Byte :=
  [0xF0, 0x80, 0x80, 0x80, 0xF0,  0xE0, 0x90, 0x90, 0x90, 0xE0,
   0xF0, 0x80, 0xF0, 0x80, 0xF0,  0xF0, 0x80, 0xF0, 0x80, 0x80]

/-- `FONT_DATA` (R44): the 80 font bytes in glyph order, a configuration table decided by the spec (D7). -/
def fontData : List Byte := fontData03 ++ fontData47 ++ fontData8B ++ fontDataCF

/-- The OPEN parameters of the instance that `State.reset` starts (R9). FREE VALUE: no body, so no proof can see which
shift source, error policy or time base it is (log entry 2). -/
opaque params : Params

/-- The `now` argument of the reset that made the core (R38, R271). FREE VALUE (log entry 3). -/
opaque resetNow : Nat

/-- The `now` of the host operation with this number, when the host queue does not spell it out (R100, R241).
FREE VALUE: nothing says that it rises, so the host's duty of R258 is not assumed (log entry 4). -/
opaque nowAt : Nat → Nat

/-- The byte drawn for the host operation with this number, when the host queue does not spell it out (R100, R151).
FREE VALUE: no distribution and no relation between draws (log entry 5). -/
opaque randAt : Nat → Byte

end Config

end Sys2Proof
end

