-- ==== Sys2Proof/Machine/State.lean ====
section
/-! DEFINITION. The state of the core as plain data. The fields from `mem` to `halted` are exactly the tuple of
`10_state.md` R40. The fields after them are the MODEL's own (log entries 2, 5, 6 and 7): the instance's parameters, the
drawn byte of the step in progress, the host's operations still to come, their count, and the answer of the last one. -/

namespace Sys2Proof.Machine

/-- Why the machine stops with a fault: never. It has no constructor, because no rule of the spec stops the core: every
address is masked, every coordinate wraps, and each of the four errors leaves a state the spec describes and is reported
to the host (R52, R230, R236), so it is a next state here. Safe: nothing is cut off. -/
inductive Fault
deriving DecidableEq, Repr

/-- Why an instruction has no meaning in the model. -/
inductive Refusal where
  /-- Raised by an arm of `exec` whose instruction has no meaning yet. No arm of this model raises it. Safe: a refused
  instruction proves nothing. -/
  | notModelled (mnemonic : String)
deriving DecidableEq, Repr

/-- The four error kinds (R230). -/
inductive ErrorKind where
  /-- A Running step's word decodes to no instruction (R106). -/
  | unknownOpcode
  /-- CALL with the stack at `STACK_DEPTH` entries (R123). -/
  | stackOverflow
  /-- RET with the stack empty (R121). -/
  | stackUnderflow
  /-- `load_program` whose bytes would pass 0xFFF (R274). -/
  | programTooLarge
deriving DecidableEq, Repr

/-- The report of a step error (R232, codes 1 to 3); Halted(info) holds one (R35). -/
structure StepReport where
  /-- The error kind. -/
  kind : ErrorKind
  /-- The cause code of R231. -/
  code : Nat
  /-- The fetched instruction word. -/
  word : Word
  /-- The address it was fetched from: `pc` at the start of the step. -/
  addr : Word
deriving DecidableEq, Repr

/-- The report of a failed load (R232, code 4). -/
structure LoadReport where
  /-- The error kind, ProgramTooLarge. -/
  kind : ErrorKind
  /-- The cause code of R231. -/
  code : Nat
  /-- The number of bytes offered. -/
  length : Nat
deriving DecidableEq, Repr

/-- What a step returns (R113). -/
inductive StepResult where
  /-- A Running step executed a recognised instruction without error. -/
  | ok
  /-- A Waiting step found no key pressed (R109). -/
  | waiting
  /-- A Waiting step resolved the wait with this key (R110). -/
  | keyResolved (k : Key)
  /-- A Running step raised a step error (R106, R107). -/
  | error (info : StepReport)
  /-- A step taken in the Halted state (R112). -/
  | halted (info : StepReport)
deriving DecidableEq, Repr

/-- The framebuffer (R32): 32 rows of 64 pixels. Bit `x` of row `y` is the pixel at row `y`, column `x`. -/
abbrev Framebuffer := Vector (BitVec 64) 32

/-- Memory (R50) as the list of the bytes that differ from their reset contents, addresses strictly rising; what an
unlisted address reads as is `Memory.unlisted` (`Machine/Ops.lean`). -/
abbrev Memory := List Host.Cell

/-- The operations of the host interface (R250), each with its inputs. -/
inductive HostOp where
  /-- `reset(now)` (R251). -/
  | reset (now : Nat)
  /-- `load_program(bytes)` (R252). -/
  | loadProgram (bytes : List Byte)
  /-- `step(now, rand)` (R253). -/
  | step (now : Nat) (rand : Byte)
  /-- `read_framebuffer()` (R254). -/
  | readFramebuffer
  /-- `set_key(index, pressed)` (R255): the port is 4 bits wide. -/
  | setKey (index : Key) (pressed : Bool)
  /-- `delay_timer()` (R256). -/
  | delayTimer
  /-- `sound_timer()` (R256). -/
  | soundTimer
deriving DecidableEq, Repr

/-- What a host operation hands back (R250). -/
inductive Reply where
  /-- The operation has no output (`reset`, `set_key`). -/
  | none
  /-- `step`'s result (R113). -/
  | step (result : StepResult)
  /-- `load_program` succeeded (R273). -/
  | loaded
  /-- `load_program` failed (R274). -/
  | tooLarge (info : LoadReport)
  /-- `read_framebuffer`'s snapshot (R254). -/
  | snapshot (pixels : Framebuffer)
  /-- `delay_timer`'s or `sound_timer`'s byte (R256). -/
  | timer (value : Byte)
deriving DecidableEq, Repr

/-- The state of the machine. -/
structure State where
  /-- 4096 bytes of memory (R50). -/
  mem : Memory
  /-- V0 to VF (R20); VF, index 0xF, is the flag register (R21). -/
  v : Vector Byte 16
  /-- The index register `I` (R27). -/
  i : Word
  /-- The program counter (R23). -/
  pc : Word
  /-- The call stack, the newest saved `pc` first (R28). -/
  stack : List Word
  /-- The delay timer (R30). -/
  dt : Byte
  /-- The sound timer (R30). -/
  st : Byte
  /-- The time of the last tick, or of the last reset (R31). -/
  lastTick : Nat
  /-- The framebuffer (R32). -/
  fb : Framebuffer
  /-- The key state (R33): entry `k` is `Key[k]`, true meaning pressed. -/
  keys : Vector Bool 16
  /-- The key-wait slot (R34). -/
  wait : Option Reg
  /-- The halted slot (R35). -/
  halted : Option StepReport
  /-- MODEL's own: the OPEN parameters of this instance (R37). Nothing writes it. -/
  params : Params
  /-- MODEL's own: the byte drawn for the step in progress (R100); every Running step sets it before it executes. -/
  rand : Byte
  /-- MODEL's own: the host's operations still to come, the next first (R257). -/
  inbox : List HostOp
  /-- MODEL's own: how many host operations have been performed, the argument of the free inputs. -/
  opNo : Nat
  /-- MODEL's own: what the last host operation returned. -/
  reply : Reply
deriving DecidableEq, Repr

/-- The state that `reset(now)` leaves (R38, R270), with the model's own fields as given. Memory lists nothing: an
unlisted address reads as its reset contents, the font or 0x00. -/
def State.resetTo (now : Nat) (params : Params) (rand : Byte) (inbox : List HostOp) (opNo : Nat) (reply : Reply) :
    State where
  mem := []
  v := Vector.replicate 16 0x00#8
  i := 0x0000#16
  pc := Config.pcReset
  stack := []
  dt := 0x00#8
  st := 0x00#8
  lastTick := now
  fb := Vector.replicate 32 0#64
  keys := Vector.replicate 16 false
  wait := Option.none
  halted := Option.none
  params := params
  rand := rand
  inbox := inbox
  opNo := opNo
  reply := reply

/-- The machine right after its construction, which is a reset (R38, R271). Of the model's own fields, the parameters
and the time of the reset are free values; the others are DESIGN CHOICEs (log entries 5, 6 and 7). -/
def State.reset : State :=
  State.resetTo Config.resetNow Config.params 0x00#8 [] 0 Reply.none

end Sys2Proof.Machine
end

