-- ==== Sys2Proof/Machine/Ops.lean ====
section
/-! DEFINITION. The named operations over memory, registers, the call stack, the framebuffer, the keys and the timers;
raising a step error, which is all the exception entry this core has (R236) and from which no instruction returns (R237:
under `Continue` the next step simply runs, under `Halt` only reset resumes). -/

namespace Sys2Proof.Machine

/-- The outcome of a step or of a meaning. -/
abbrev Result := Host.Outcome State Fault Refusal

/-! ## Memory (`20_memory.md`) -/

/-- What an address that memory does not list reads as: its reset contents (R38), the font byte or 0x00. -/
def Memory.unlisted (a : Nat) : Byte :=
  if Config.fontBase ≤ a then Config.fontData.getD (a - Config.fontBase) 0x00#8 else 0x00#8

/-- The byte at an address already masked to 12 bits. -/
def Memory.read : Memory → Nat → Byte
  | [], a => Memory.unlisted a
  | (b, w) :: m, a => if b = a then w else Memory.read m a

/-- Memory without any entry for the address. -/
def Memory.erase : Memory → Nat → Memory
  | [], _ => []
  | (b, w) :: m, a => if b = a then Memory.erase m a else (b, w) :: Memory.erase m a

/-- Memory with an entry put in before the first greater address. -/
def Memory.insert : Memory → Nat → Byte → Memory
  | [], a, w => [(a, w)]
  | (b, u) :: m, a, w => if a < b then (a, w) :: (b, u) :: m else (b, u) :: Memory.insert m a w

/-- Memory after a byte is written at an address already masked to 12 bits. Writing the reset contents back removes the
entry, so that equal memories are equal lists. -/
def Memory.write (m : Memory) (a : Nat) (w : Byte) : Memory :=
  if w = Memory.unlisted a then Memory.erase m a else Memory.insert (Memory.erase m a) a w

/-- Every address of the list is above the bound, inside memory and not at its reset contents, and addresses rise. -/
def Memory.wfAbove : Nat → Memory → Bool
  | _, [] => true
  | lo, (a, w) :: m => decide (lo ≤ a) && decide (a < Config.memSize) && (w != Memory.unlisted a) && Memory.wfAbove (a + 1) m

/-- The canonical form of memory: addresses strictly rising and below 4096, and no entry equal to what an unlisted
address reads as. -/
def Memory.wf (m : Memory) : Bool := Memory.wfAbove 0 m

/-- Only the low 12 bits of an address select a byte (R52): `addr & 0xFFF`. -/
def maskAddr (addr : Nat) : Nat := addr % Config.memSize

/-- `MemRead(addr, 1)` (R52). -/
def memRead (s : State) (addr : Nat) : Byte := Memory.read s.mem (maskAddr addr)

/-- `MemWrite(addr, 1, v)` (R53). -/
def memWrite (s : State) (addr : Nat) (w : Byte) : State := { s with mem := Memory.write s.mem (maskAddr addr) w }

/-- Bytes read at consecutive addresses, each masked on its own (R55): at `base`, `base + 1`, ..., `n` of them. -/
def loadBytes (s : State) (base : Nat) : Nat → List Byte
  | 0 => []
  | n + 1 => memRead s base :: loadBytes s (base + 1) n

/-- Bytes written at consecutive addresses in increasing order, each masked on its own (R55, R63). -/
def storeBytes (base : Nat) : List Byte → State → State
  | [], s => s
  | w :: ws, s => storeBytes (base + 1) ws (memWrite s base w)

/-- `FetchWord(a)` (R54): big-endian, each byte address masked on its own. -/
def fetchWord (s : State) (a : Word) : Word := wordOfBytes (memRead s a.toNat) (memRead s (a.toNat + 1))

/-- An instruction word put in memory where `FetchWord(a)` reads it. -/
def placeWord (s : State) (a w : Word) : State := storeBytes a.toNat [highByte w, lowByte w] s

/-! ## Registers (`10_state.md`) -/

/-- `V[x]` (R11, R20). -/
def getV (s : State) (x : Reg) : Byte := s.v[x.toNat]'x.isLt

/-- `V[x] <- w` (R11, R20). -/
def setV (s : State) (x : Reg) (w : Byte) : State := { s with v := s.v.set x.toNat w x.isLt }

/-- The index of VF, the flag register (R21). -/
def regF : Reg := 0xF#4

/-- VF written with a flag, 1 or 0 (R21). -/
def setFlag (s : State) (flag : Bool) : State := setV s regF (if flag then 0x01#8 else 0x00#8)

/-- Vx written, then VF (R22): where x = F the flag is what VF holds afterwards. -/
def setVFlag (s : State) (x : Reg) (w : Byte) (flag : Bool) : State := setFlag (setV s x w) flag

/-- `I <- w`. -/
def setI (s : State) (w : Word) : State := { s with i := w }

/-- `pc <- target`, modulo 2^16 (R23). -/
def setPc (s : State) (target : Word) : State := { s with pc := target }

/-- `pc` moved by one instruction word, modulo 2^16 (R102). -/
def advancePc (s : State) : State := setPc s (s.pc + 2#16)

/-- `Skip(cond)` (R120): one more instruction word when the condition holds. -/
def skipIf (s : State) (cond : Bool) : State := setPc s (if cond then s.pc + 2#16 else s.pc)

/-- `DT <- w` (R30). -/
def setDT (s : State) (w : Byte) : State := { s with dt := w }

/-- `ST <- w` (R30). -/
def setST (s : State) (w : Byte) : State := { s with st := w }

/-- `wait <- w` (R34). -/
def setWait (s : State) (w : Option Reg) : State := { s with wait := w }

/-- V0, V1, ... loaded from memory in increasing order, `n` of them (R195): `V[k] <- MemRead(base + k, 1)`. -/
def loadRegs (base : Nat) : Nat → State → State
  | 0, s => s
  | n + 1, s => setV (loadRegs base n s) (BitVec.ofNat 4 n) (memRead s (base + n))

/-- The values of V0, V1, ..., `n` of them in order (R194). -/
def firstRegs (s : State) (n : Nat) : List Byte := (List.range n).map (fun k => getV s (BitVec.ofNat 4 k))

/-! ## Call stack (R28, R29) -/

/-- `Push(v)`: raises StackOverflow, the stack unchanged, when it holds `STACK_DEPTH` values. -/
def push (s : State) (w : Word) : Except ErrorKind State :=
  if s.stack.length < Config.stackDepth then .ok { s with stack := w :: s.stack } else .error .stackOverflow

/-- `Pop()`: the newest value and the state without it; raises StackUnderflow when the stack is empty. -/
def pop (s : State) : Except ErrorKind (Word × State) :=
  match s.stack with
  | [] => .error .stackUnderflow
  | w :: rest => .ok (w, { s with stack := rest })

/-! ## Step errors (`60_exceptions.md`) -/

/-- The cause code of an error kind (R231). -/
def errorCode : ErrorKind → Nat
  | .unknownOpcode => 1
  | .stackOverflow => 2
  | .stackUnderflow => 3
  | .programTooLarge => 4

/-- The report of a step error (R232), raised in the execute phase: there `pc` holds `a + 2` (R24), so the address the
word was fetched from is `pc - 2`. -/
def stepReport (s : State) (kind : ErrorKind) (w : Word) : StepReport :=
  { kind := kind, code := errorCode kind, word := w, addr := s.pc - 2#16 }

/-- `raise E(info)`: the step ends with the report in its result and no other effect, but for `halted` under
`ERROR_POLICY = Halt` (R107, R108, R234, R235). -/
def raiseError (s : State) (kind : ErrorKind) (w : Word) : State :=
  { s with
    halted := match s.params.errorPolicy with
      | .halt => some (stepReport s kind w)
      | .continueRunning => s.halted
    reply := .step (.error (stepReport s kind w)) }

/-- Whether the execute phase just run raised an error. -/
def raised (s : State) : Bool :=
  match s.reply with
  | .step (.error _) => true
  | _ => false

/-! ## Framebuffer (`43_display.md`) -/

/-- `FB[y][x]` (R32). -/
def pixel (fb : Framebuffer) (y : Fin 32) (x : Fin 64) : Bool := (fb[y.val]'y.isLt).getLsbD x.val

/-- `FB[y][x] <- FB[y][x] ^ 1` (R171). -/
def flipPixel (fb : Framebuffer) (y : Fin 32) (x : Fin 64) : Framebuffer :=
  fb.set y.val (fb[y.val]'y.isLt ^^^ (1#64 <<< x.val)) y.isLt

/-- A clear framebuffer (R170). -/
def clearFb : Framebuffer := Vector.replicate 32 0#64

/-- The framebuffer replaced. -/
def setFb (s : State) (fb : Framebuffer) : State := { s with fb := fb }

/-! ## Keys (R33) -/

/-- `Key[k]`. -/
def keyPressed (s : State) (k : Key) : Bool := s.keys[k.toNat]'k.isLt

/-- `Key[k] <- pressed`, and nothing else (R255). -/
def setKey (s : State) (k : Key) (pressed : Bool) : State := { s with keys := s.keys.set k.toNat pressed k.isLt }

/-- The key indices in increasing order. -/
def allKeys : List Key := [0x0, 0x1, 0x2, 0x3, 0x4, 0x5, 0x6, 0x7, 0x8, 0x9, 0xA, 0xB, 0xC, 0xD, 0xE, 0xF]

/-- The least index of a pressed key, if a key is pressed (R110, R111). -/
def leastKey (s : State) : Option Key := allKeys.find? (keyPressed s)

/-! ## The timer unit (R241 to R243) -/

/-- Whether a tick is due: at least 1/60 second since the last one. `now - lastTick` is `max(0, now - last_tick)`, since
subtraction on `Nat` stops at 0 (R241). -/
def tickDue (s : State) (now : Nat) : Bool :=
  decide ((s.params.timeBaseHz : Nat) ≤ Config.timerHz * (now - s.lastTick))

/-- A counter after a tick: one less, and 0 stays 0 (R242, R243). -/
def countDown (w : Byte) : Byte := if w = 0#8 then 0#8 else w - 1#8

/-- `TimerCheck(now)` (R242). -/
def timerCheck (s : State) (now : Nat) : State :=
  { s with
    dt := if tickDue s now then countDown s.dt else s.dt
    st := if tickDue s now then countDown s.st else s.st
    lastTick := if tickDue s now then now else s.lastTick }

end Sys2Proof.Machine
end

