-- ==== Sys2Proof/Machine/Flags.lean ====
section
/-! DEFINITION. Every flag computation of the spec, each on the operands as read at the start of the instruction (R13,
R21): the carry of ADD Vx,Vy, the NOT borrow of SUB and SUBN, and the bit shifted out by SHR and SHL. The collision flag
of DRW is computed with the drawing (`collides` in `Machine/Operands.lean`). -/

namespace Sys2Proof.Machine

/-- Carry (R146): the exact sum is 256 or more. -/
def carry (a b : Byte) : Bool := decide (256 ≤ a.toNat + b.toNat)

/-- NOT borrow of `a - b` (R147, R149): `a >= b`. -/
def notBorrow (a b : Byte) : Bool := decide (b.toNat ≤ a.toNat)

/-- The bit SHR shifts out, bit 0 of the source (R148). -/
def shiftedOutRight (w : Byte) : Bool := w.getLsbD 0

/-- The bit SHL shifts out, bit 7 of the source (R150). -/
def shiftedOutLeft (w : Byte) : Bool := w.getLsbD 7

end Sys2Proof.Machine
end

