-- ==== Sys2Proof/Machine/Operands.lean ====
section
/-! DEFINITION. Every operand form of the spec: immediates (R73), the shift source (R152), the key an instruction selects
(R210), the addresses formed from `I` (R197), the glyph address (R192), decimal digits (R193), and the pixels of a sprite
with the drawing itself (R171 to R177). -/

namespace Sys2Proof.Machine

/-- The 12-bit address immediate where it is written to `pc` or `I`: zero-extended to 16 bits (R73). -/
def addrWord (nnn : Addr) : Word := nnn.setWidth 16

/-- `ShiftSrc(x, y)` (R152), under the OPEN parameter `SHIFT_SOURCE`. -/
def shiftSrc (s : State) (x y : Reg) : Byte :=
  match s.params.shiftSource with
  | .vx => getV s x
  | .vy => getV s y

/-- The key SKP and SKNP select: the low nibble of Vx (R210). -/
def keyOperand (s : State) (x : Reg) : Key := (getV s x).extractLsb' 0 4

/-- The address in `I`, before the masking that each byte access applies (R197, R55). -/
def indexAddr (s : State) : Nat := s.i.toNat

/-- `(I + V[x]) mod 4096` (R191). -/
def indexPlus (s : State) (x : Reg) : Word := BitVec.ofNat 16 ((s.i.toNat + (getV s x).toNat) % Config.memSize)

/-- `FONT_BASE + 5 * (V[x] & 0xF)` (R192). -/
def glyphAddr (s : State) (x : Reg) : Word :=
  BitVec.ofNat 16 (Config.fontBase + Config.glyphBytes * ((getV s x).toNat % 16))

/-- The hundreds, tens and units of a byte (R193). -/
def decimalDigits (w : Byte) : List Byte :=
  [BitVec.ofNat 8 (w.toNat / 100), BitVec.ofNat 8 (w.toNat / 10 % 10), BitVec.ofNat 8 (w.toNat % 10)]

/-! ## Sprites -/

/-- A row coordinate wraps modulo 32 (R173). -/
def wrapRow (y : Nat) : Fin 32 := Fin.ofNat 32 y

/-- A column coordinate wraps modulo 64 (R173). -/
def wrapCol (x : Nat) : Fin 64 := Fin.ofNat 64 x

/-- The pixels that one sprite row inverts: bit `7 - c` is the pixel at column offset `c` (R172). -/
def spriteRowPixels (x0 y : Nat) (row : Byte) : List (Fin 32 × Fin 64) :=
  ((List.range 8).filter (fun c => row.getLsbD (7 - c))).map (fun c => (wrapRow y, wrapCol (x0 + c)))

/-- The pixels that a sprite inverts, row by row from the top (R171): its first row lies at row `y0`. -/
def spritePixels (x0 y0 : Nat) : List Byte → List (Fin 32 × Fin 64)
  | [] => []
  | row :: rows => spriteRowPixels x0 y0 row ++ spritePixels x0 (y0 + 1) rows

/-- The framebuffer after pixels are inverted one after another (R171). -/
def flipPixels : Framebuffer → List (Fin 32 × Fin 64) → Framebuffer
  | fb, [] => fb
  | fb, (y, x) :: ps => flipPixels (flipPixel fb y x) ps

/-- Whether one of the pixels was 1 just before its inversion (R171, R174): the collision flag. -/
def collides : Framebuffer → List (Fin 32 × Fin 64) → Bool
  | _, [] => false
  | fb, (y, x) :: ps => pixel fb y x || collides (flipPixel fb y x) ps

/-- The sprite of `DRW Vx,Vy,n`: the `n` bytes at `I`, placed at column `V[x]` and row `V[y]`, all read before VF is
written (R177). -/
def spriteOf (s : State) (x y : Reg) (n : RowCount) : List (Fin 32 × Fin 64) :=
  spritePixels (getV s x).toNat (getV s y).toNat (loadBytes s (indexAddr s) n.toNat)

end Sys2Proof.Machine
end

