-- ==== Sys2Proof/Machine/Alu.lean ====
section
/-! DEFINITION. The meanings of `42_register_alu.md`: register loads, unsigned 8-bit arithmetic modulo 256 (R153), the
shifts and RND. Operands are read first, Vx is written, then VF (R13, R22). -/

namespace Sys2Proof.Machine

/-- LD Vx,byte (R140). -/
def execLdByte (x : Reg) (kk : Byte) (s : State) : Result := .next (setV s x kk)

/-- ADD Vx,byte (R141): no flag. -/
def execAddByte (x : Reg) (kk : Byte) (s : State) : Result := .next (setV s x (getV s x + kk))

/-- LD Vx,Vy (R142). -/
def execLdReg (x y : Reg) (s : State) : Result := .next (setV s x (getV s y))

/-- OR Vx,Vy (R143): VF is left alone. -/
def execOrReg (x y : Reg) (s : State) : Result := .next (setV s x (getV s x ||| getV s y))

/-- AND Vx,Vy (R144): VF is left alone. -/
def execAndReg (x y : Reg) (s : State) : Result := .next (setV s x (getV s x &&& getV s y))

/-- XOR Vx,Vy (R145): VF is left alone. -/
def execXorReg (x y : Reg) (s : State) : Result := .next (setV s x (getV s x ^^^ getV s y))

/-- ADD Vx,Vy (R146). -/
def execAddReg (x y : Reg) (s : State) : Result :=
  .next (setVFlag s x (getV s x + getV s y) (carry (getV s x) (getV s y)))

/-- SUB Vx,Vy (R147). -/
def execSubReg (x y : Reg) (s : State) : Result :=
  .next (setVFlag s x (getV s x - getV s y) (notBorrow (getV s x) (getV s y)))

/-- SHR Vx {,Vy} (R148). -/
def execShr (x y : Reg) (s : State) : Result :=
  .next (setVFlag s x (shiftSrc s x y >>> 1) (shiftedOutRight (shiftSrc s x y)))

/-- SUBN Vx,Vy (R149). -/
def execSubnReg (x y : Reg) (s : State) : Result :=
  .next (setVFlag s x (getV s y - getV s x) (notBorrow (getV s y) (getV s x)))

/-- SHL Vx {,Vy} (R150). -/
def execShl (x y : Reg) (s : State) : Result :=
  .next (setVFlag s x (shiftSrc s x y <<< 1) (shiftedOutLeft (shiftSrc s x y)))

/-- RND Vx,byte (R151): the byte drawn for this step, masked. -/
def execRnd (x : Reg) (kk : Byte) (s : State) : Result := .next (setV s x (s.rand &&& kk))

end Sys2Proof.Machine
end

