-- ==== Sys2Proof/Machine/ControlFlow.lean ====
section
/-! DEFINITION. The meanings of `41_control_flow.md`: RET, JP, CALL, the conditional skips on registers, JP V0. Every
meaning runs in the execute phase, where `pc` already holds `a + 2` (R24, R104). -/

namespace Sys2Proof.Machine

/-- RET (R121). -/
def execRet (s : State) : Result :=
  match pop s with
  | .ok (target, t) => .next (setPc t target)
  | .error kind => .next (raiseError s kind (encode .ret))

/-- JP addr (R122). -/
def execJp (nnn : Addr) (s : State) : Result := .next (setPc s (addrWord nnn))

/-- CALL addr (R123). -/
def execCall (nnn : Addr) (s : State) : Result :=
  match push s s.pc with
  | .ok t => .next (setPc t (addrWord nnn))
  | .error kind => .next (raiseError s kind (encode (.call nnn)))

/-- SE Vx,byte (R124). -/
def execSeByte (x : Reg) (kk : Byte) (s : State) : Result := .next (skipIf s (getV s x == kk))

/-- SNE Vx,byte (R125). -/
def execSneByte (x : Reg) (kk : Byte) (s : State) : Result := .next (skipIf s (getV s x != kk))

/-- SE Vx,Vy (R126). -/
def execSeReg (x y : Reg) (s : State) : Result := .next (skipIf s (getV s x == getV s y))

/-- SNE Vx,Vy (R127). -/
def execSneReg (x y : Reg) (s : State) : Result := .next (skipIf s (getV s x != getV s y))

/-- JP V0,addr (R128): the sum is kept unreduced, modulo 2^16 only. -/
def execJpV0 (nnn : Addr) (s : State) : Result := .next (setPc s (addrWord nnn + (getV s 0x0#4).setWidth 16))

end Sys2Proof.Machine
end

