-- ==== Sys2Proof/Machine/Display.lean ====
section
/-! DEFINITION. The meanings of `43_display.md`: CLS and DRW. -/

namespace Sys2Proof.Machine

/-- CLS (R170). -/
def execCls (s : State) : Result := .next (setFb s clearFb)

/-- DRW Vx,Vy,n (R171): the sprite is read, its pixels are inverted, and VF becomes the collision flag. -/
def execDrw (x y : Reg) (n : RowCount) (s : State) : Result :=
  .next (setFlag (setFb s (flipPixels s.fb (spriteOf s x y n))) (collides s.fb (spriteOf s x y n)))

end Sys2Proof.Machine
end

