-- ==== Sys2Proof/Machine/IndexMemory.lean ====
section
/-! DEFINITION. The meanings of `44_index_memory.md`: the index register and the accesses to memory through it. None of
the four accesses changes `I` (R196). -/

namespace Sys2Proof.Machine

/-- LD I,addr (R190). -/
def execLdI (nnn : Addr) (s : State) : Result := .next (setI s (addrWord nnn))

/-- ADD I,Vx (R191): modulo 4096, no flag. -/
def execAddIVx (x : Reg) (s : State) : Result := .next (setI s (indexPlus s x))

/-- LD F,Vx (R192). -/
def execLdFVx (x : Reg) (s : State) : Result := .next (setI s (glyphAddr s x))

/-- LD B,Vx (R193). -/
def execLdBVx (x : Reg) (s : State) : Result := .next (storeBytes (indexAddr s) (decimalDigits (getV s x)) s)

/-- LD [I],Vx (R194): V0 to Vx inclusive. -/
def execLdMemVx (x : Reg) (s : State) : Result := .next (storeBytes (indexAddr s) (firstRegs s (x.toNat + 1)) s)

/-- LD Vx,[I] (R195): V0 to Vx inclusive. -/
def execLdVxMem (x : Reg) (s : State) : Result := .next (loadRegs (indexAddr s) (x.toNat + 1) s)

end Sys2Proof.Machine
end

