-- ==== Sys2Proof/Machine/KeysTimers.lean ====
section
/-! DEFINITION. The meanings of `45_keys_timers.md`: the key skips, the timer accesses and the key wait. -/

namespace Sys2Proof.Machine

/-- SKP Vx (R211). -/
def execSkp (x : Reg) (s : State) : Result := .next (skipIf s (keyPressed s (keyOperand s x)))

/-- SKNP Vx (R212). -/
def execSknp (x : Reg) (s : State) : Result := .next (skipIf s (!keyPressed s (keyOperand s x)))

/-- LD Vx,DT (R213): DT as it is before this step's timer check. -/
def execLdVxDT (x : Reg) (s : State) : Result := .next (setV s x s.dt)

/-- LD DT,Vx (R214). -/
def execLdDTVx (x : Reg) (s : State) : Result := .next (setDT s (getV s x))

/-- LD ST,Vx (R215). -/
def execLdSTVx (x : Reg) (s : State) : Result := .next (setST s (getV s x))

/-- LD Vx,K (R216): the keys are not tested and Vx is not written in this step. -/
def execLdVxK (x : Reg) (s : State) : Result := .next (setWait s (some x))

end Sys2Proof.Machine
end

