-- ==== Sys2Proof/Machine/Cycle.lean ====
section
/-! DEFINITION. The step cycle (`40_step_cycle.md`) and the operations of the host interface (`60_exceptions.md` R250 to
R257, `70_reset_and_hazards.md` R270 to R274), each one atomic transition. -/

namespace Sys2Proof.Machine

/-- The answer of the operation just performed. -/
def setReply (s : State) (r : Reply) : State := { s with reply := r }

/-- The step's drawn byte, set before the step executes (R100, R151). -/
def setRand (s : State) (rand : Byte) : State := { s with rand := rand }

/-! ## The step (R114) -/

/-- A step in the Halted state (R112): nothing changes. -/
def haltedStep (info : StepReport) (s : State) : State := setReply s (.step (.halted info))

/-- A step in Waiting(x) (R109, R110, R111): the least pressed key, if any, resolves the wait; the timers are checked. -/
def waitingStep (x : Reg) (now : Nat) (s : State) : State :=
  match leastKey s with
  | some k => setReply (timerCheck (setWait (setV s x (k.setWidth 8)) none) now) (.step (.keyResolved k))
  | none => setReply (timerCheck s now) (.step .waiting)

/-- The state in which the instruction fetched at `pc` executes: `pc` advanced (R102), the drawn byte set, and the result
Ok unless the execution raises an error. -/
def executeEntry (s : State) (rand : Byte) : State := setReply (setRand (advancePc s) rand) (.step .ok)

/-- The timer check that follows a successful execute phase, and only that (R105, R107). -/
def afterExecute (now : Nat) (t : State) : State := if raised t then t else timerCheck t now

/-- A step in the Running state (R101 to R108): fetch, advance, decode, execute, timer check. -/
def runningStep (now : Nat) (rand : Byte) (s : State) : Result :=
  match decodeWord (fetchWord s s.pc) with
  | .error _ => .next (raiseError (executeEntry s rand) .unknownOpcode (fetchWord s s.pc))
  | .ok ins =>
    match exec ins (executeEntry s rand) with
    | .next t => .next (afterExecute now t)
    | .fault r => .fault r
    | .refused r => .refused r

/-- `step(now, rand)` (R114). -/
def stepOp (now : Nat) (rand : Byte) (s : State) : Result :=
  match s.halted with
  | some info => .next (haltedStep info s)
  | none =>
    match s.wait with
    | some x => .next (waitingStep x now s)
    | none => runningStep now rand s

/-! ## The host's other operations -/

/-- `reset(now)` (R270): every piece of state takes its value of R38. -/
def resetOp (now : Nat) (s : State) : State := State.resetTo now s.params s.rand s.inbox s.opNo Reply.none

/-- `load_program(bytes)` (R273, R274): all of the bytes at 0x200 upward, or nothing and ProgramTooLarge. -/
def loadProgramOp (bytes : List Byte) (s : State) : State :=
  if Config.programBase + bytes.length ≤ Config.memSize then
    setReply (storeBytes Config.programBase bytes s) .loaded
  else
    setReply s (.tooLarge { kind := .programTooLarge, code := errorCode .programTooLarge, length := bytes.length })

/-- One operation of the host interface (R250). -/
def perform (op : HostOp) (s : State) : Result :=
  match op with
  | .reset now => .next (resetOp now s)
  | .loadProgram bytes => .next (loadProgramOp bytes s)
  | .step now rand => stepOp now rand s
  | .readFramebuffer => .next (setReply s (.snapshot s.fb))
  | .setKey k pressed => .next (setReply (setKey s k pressed) .none)
  | .delayTimer => .next (setReply s (.timer s.dt))
  | .soundTimer => .next (setReply s (.timer s.st))

/-- The host's next operation (R257): the first of its queue, or, when the queue spells out none, a step whose time and
byte are free values. -/
def nextOp (s : State) : HostOp :=
  match s.inbox with
  | [] => .step (Config.nowAt s.opNo) (Config.randAt s.opNo)
  | op :: _ => op

/-- The queue without that operation, and the count of operations raised. -/
def takeOp (s : State) : State := { s with inbox := s.inbox.tail, opNo := s.opNo + 1 }

/-- One transition of the machine: the host's next operation, performed as a whole (R257, R59). -/
def transition (s : State) : Result := perform (nextOp s) (takeOp s)

/-- The state made ready to fetch the word `w` next: the word stands at `pc`, the core is Running, and the host's next
operation is a step. -/
def readyToFetch (s : State) (w : Word) : State :=
  { placeWord s s.pc w with wait := none, halted := none, inbox := [] }

end Sys2Proof.Machine
end

