-- ==== Sys2Proof/Machine/Step.lean ====
section
/-! DEFINITION. The machine's step: one operation of the host interface, performed atomically (R250, R257). -/

namespace Sys2Proof.Machine

/-- One step of the machine. Where the host's next operation is `step(now, rand)`, it is the step of R114. -/
def step (s : State) : Host.Outcome State Fault Refusal := transition s

/-- The state with one instruction of the opcode table, whose bits are the low `nbits` bits of `w`, stored where `step`
fetches next (log entry 8). -/
def State.withFetchWord (s : State) (nbits w : Nat) : State := readyToFetch s (tableWord nbits w)

end Sys2Proof.Machine
end

