-- ==== Sys2Proof/Safety.lean ====
section
/-! DEFINITION. The terms claims are stated in: the run states, the invariant of a good state, what each instruction may
write (the frame), and the ticks of a sequence of timer checks. -/

namespace Sys2Proof.Machine

/-! ## Run states (R35) -/

/-- The core is Running: `wait` and `halted` are empty. -/
abbrev Running (s : State) : Prop := s.wait = none ∧ s.halted = none

/-- The core is in Waiting(x). -/
abbrev WaitingFor (s : State) (x : Reg) : Prop := s.wait = some x ∧ s.halted = none

/-- The host's next operation is `step(now, rand)`. -/
abbrev StepsWith (s : State) (now : Nat) (rand : Byte) : Prop := nextOp s = .step now rand

/-- The end state E2 of R282: the core is Running at a jump to itself, at a `pc` below 0x1000. -/
abbrev AtSelfJump (s : State) : Prop :=
  Running s ∧ s.pc.toNat < 0x1000 ∧ (fetchWord s s.pc).toNat = 0x1000 + s.pc.toNat

/-- The end E1 of R282: under `ERROR_POLICY = Halt` the last step returned an error or Halted. -/
def endedByError (s : State) : Bool :=
  match s.params.errorPolicy, s.reply with
  | .halt, .step (.error _) => true
  | .halt, .step (.halted _) => true
  | _, _ => false

/-! ## The invariant -/

/-- A good state: memory is canonical, the call stack holds at most 16 values (R28), `I` is 0x000 to 0xFFF (R27), and
`wait` and `halted` are not both set (R35). -/
abbrev State.Inv (s : State) : Prop :=
  Memory.wf s.mem = true ∧ s.stack.length ≤ 16 ∧ s.i.toNat < 4096 ∧ (s.wait = none ∨ s.halted = none)

/-! ## Encodings -/

/-- The word with this number decodes to this instruction (R74). -/
abbrev Decodes (n : Nat) (i : Instr) : Prop := decodeWord (BitVec.ofNat 16 n) = .ok i

/-! ## Frames -/

/-- Whether the instruction may write the register: its named destination, and VF where R21 lists it. -/
def writesReg (i : Instr) (r : Reg) : Bool :=
  match i with
  | .ldByte x _ | .addByte x _ | .ldReg x _ | .orReg x _ | .andReg x _ | .xorReg x _ | .rnd x _ | .ldVxDT x => r == x
  | .addReg x _ | .subReg x _ | .shr x _ | .subnReg x _ | .shl x _ => r == x || r == 0xF#4
  | .drw _ _ _ => r == 0xF#4
  | .ldVxMem x => decide (r.toNat ≤ x.toNat)
  | .cls | .ret | .jp _ | .call _ | .seByte _ _ | .sneByte _ _ | .seReg _ _ | .sneReg _ _ | .ldI _ | .jpV0 _ | .skp _
  | .sknp _ | .ldVxK _ | .ldDTVx _ | .ldSTVx _ | .addIVx _ | .ldFVx _ | .ldBVx _ | .ldMemVx _ => false

/-- The memory addresses the instruction stores to in this state (R58): LD B stores 3 bytes and LD [I] stores `x + 1`
bytes from the address in `I`; no other instruction stores. -/
def storedAddrs (i : Instr) (s : State) : List Nat :=
  match i with
  | .ldBVx _ => [maskAddr (indexAddr s), maskAddr (indexAddr s + 1), maskAddr (indexAddr s + 2)]
  | .ldMemVx x => (List.range (x.toNat + 1)).map (fun k => maskAddr (indexAddr s + k))
  | .cls | .ret | .jp _ | .call _ | .seByte _ _ | .sneByte _ _ | .seReg _ _ | .ldByte _ _ | .addByte _ _ | .ldReg _ _
  | .orReg _ _ | .andReg _ _ | .xorReg _ _ | .addReg _ _ | .subReg _ _ | .shr _ _ | .subnReg _ _ | .shl _ _
  | .sneReg _ _ | .ldI _ | .jpV0 _ | .rnd _ _ | .drw _ _ _ | .skp _ | .sknp _ | .ldVxDT _ | .ldVxK _ | .ldDTVx _
  | .ldSTVx _ | .addIVx _ | .ldFVx _ | .ldVxMem _ => []

/-- Everything but `pc` is unchanged. -/
abbrev OnlyPc (s t : State) : Prop := t = { s with pc := t.pc }

/-- Everything but the general registers is unchanged. -/
abbrev OnlyRegs (s t : State) : Prop := t = { s with v := t.v }

/-- Everything but `I` is unchanged. -/
abbrev OnlyI (s t : State) : Prop := t = { s with i := t.i }

/-- Everything but memory is unchanged. -/
abbrev OnlyMem (s t : State) : Prop := t = { s with mem := t.mem }

/-- The registers other than this one are unchanged. -/
abbrev OtherRegs (s t : State) (x : Reg) : Prop := ∀ r, r ≠ x → getV t r = getV s r

/-- The registers other than this one and VF are unchanged. -/
abbrev OtherRegsAndVF (s t : State) (x : Reg) : Prop := ∀ r, r ≠ x → r ≠ 0xF#4 → getV t r = getV s r

/-! ## Sprites -/

/-- Some 1 bit of the sprite of `DRW Vx,Vy,n` lands on the pixel at row `py`, column `px` (R171 to R173). -/
def Lands (s : State) (x y : Reg) (n : RowCount) (py : Fin 32) (px : Fin 64) : Prop :=
  ∃ r < n.toNat, ∃ c < 8, (memRead s (s.i.toNat + r)).getLsbD (7 - c) = true ∧
    py.val = ((getV s y).toNat + r) % 32 ∧ px.val = ((getV s x).toNat + c) % 64

/-! ## Ticks (R244) -/

/-- How many of a sequence of timer checks, one for each time, tick. -/
def tickCount (s : State) : List Nat → Nat
  | [] => 0
  | now :: nows => (if tickDue s now then 1 else 0) + tickCount (timerCheck s now) nows

end Sys2Proof.Machine
end

