-- ==== Sys2Proof/Certificates/Slice0/Obligations.lean ====
section
/-! DEFINITION. The statements for the provers, taken from the spec's numbered rules. `exec i s` runs the execute phase, so
`s.pc` is `a + 2` there (R24); `step s` performs the host's next operation. -/

open Sys2Proof Sys2Proof.Machine

/-! ## Encoding -/

/-- R82: the worked encodings, decoded and encoded, and the bytes of CLS at 0x200. The bit positions are the spec's own
decision D3 (log entry 10). -/
def Obligations.WorkedEncodings : Prop :=
  (decodeWord 0x00E0#16 = .ok .cls ∧ encode .cls = 0x00E0#16) ∧
  (decodeWord 0x1300#16 = .ok (.jp 0x300#12) ∧ encode (.jp 0x300#12) = 0x1300#16) ∧
  (decodeWord 0x2400#16 = .ok (.call 0x400#12) ∧ encode (.call 0x400#12) = 0x2400#16) ∧
  (decodeWord 0x8014#16 = .ok (.addReg 0x0#4 0x1#4) ∧ encode (.addReg 0x0#4 0x1#4) = 0x8014#16) ∧
  (decodeWord 0x8015#16 = .ok (.subReg 0x0#4 0x1#4) ∧ encode (.subReg 0x0#4 0x1#4) = 0x8015#16) ∧
  (decodeWord 0xD011#16 = .ok (.drw 0x0#4 0x1#4 0x1#4) ∧ encode (.drw 0x0#4 0x1#4 0x1#4) = 0xD011#16) ∧
  (decodeWord 0xF033#16 = .ok (.ldBVx 0x0#4) ∧ encode (.ldBVx 0x0#4) = 0xF033#16) ∧
  (decodeWord 0xF50A#16 = .ok (.ldVxK 0x5#4) ∧ encode (.ldVxK 0x5#4) = 0xF50A#16) ∧
  ∀ s, memRead (placeWord s 0x200#16 (encode .cls)) 0x200 = 0x00#8 ∧
       memRead (placeWord s 0x200#16 (encode .cls)) 0x201 = 0xE0#8

/-- R74: the opcode map. Each word, written as a number from its digits, decodes to the instruction of its row. The map is
the spec's own decision D3 (log entry 10). -/
def Obligations.OpcodeMapDecodes : Prop :=
  Decodes 0x00E0 .cls ∧ Decodes 0x00EE .ret ∧
  (∀ nnn : Addr, Decodes (0x1000 + nnn.toNat) (.jp nnn) ∧ Decodes (0x2000 + nnn.toNat) (.call nnn) ∧
    Decodes (0xA000 + nnn.toNat) (.ldI nnn) ∧ Decodes (0xB000 + nnn.toNat) (.jpV0 nnn)) ∧
  (∀ (x : Reg) (kk : Byte),
    Decodes (0x3000 + 0x100 * x.toNat + kk.toNat) (.seByte x kk) ∧
    Decodes (0x4000 + 0x100 * x.toNat + kk.toNat) (.sneByte x kk) ∧
    Decodes (0x6000 + 0x100 * x.toNat + kk.toNat) (.ldByte x kk) ∧
    Decodes (0x7000 + 0x100 * x.toNat + kk.toNat) (.addByte x kk) ∧
    Decodes (0xC000 + 0x100 * x.toNat + kk.toNat) (.rnd x kk)) ∧
  (∀ x y : Reg,
    Decodes (0x5000 + 0x100 * x.toNat + 0x10 * y.toNat) (.seReg x y) ∧
    Decodes (0x8000 + 0x100 * x.toNat + 0x10 * y.toNat) (.ldReg x y) ∧
    Decodes (0x8001 + 0x100 * x.toNat + 0x10 * y.toNat) (.orReg x y) ∧
    Decodes (0x8002 + 0x100 * x.toNat + 0x10 * y.toNat) (.andReg x y) ∧
    Decodes (0x8003 + 0x100 * x.toNat + 0x10 * y.toNat) (.xorReg x y) ∧
    Decodes (0x8004 + 0x100 * x.toNat + 0x10 * y.toNat) (.addReg x y) ∧
    Decodes (0x8005 + 0x100 * x.toNat + 0x10 * y.toNat) (.subReg x y) ∧
    Decodes (0x8006 + 0x100 * x.toNat + 0x10 * y.toNat) (.shr x y) ∧
    Decodes (0x8007 + 0x100 * x.toNat + 0x10 * y.toNat) (.subnReg x y) ∧
    Decodes (0x800E + 0x100 * x.toNat + 0x10 * y.toNat) (.shl x y) ∧
    Decodes (0x9000 + 0x100 * x.toNat + 0x10 * y.toNat) (.sneReg x y) ∧
    ∀ n : RowCount, Decodes (0xD000 + 0x100 * x.toNat + 0x10 * y.toNat + n.toNat) (.drw x y n)) ∧
  (∀ x : Reg,
    Decodes (0xE09E + 0x100 * x.toNat) (.skp x) ∧ Decodes (0xE0A1 + 0x100 * x.toNat) (.sknp x) ∧
    Decodes (0xF007 + 0x100 * x.toNat) (.ldVxDT x) ∧ Decodes (0xF00A + 0x100 * x.toNat) (.ldVxK x) ∧
    Decodes (0xF015 + 0x100 * x.toNat) (.ldDTVx x) ∧ Decodes (0xF018 + 0x100 * x.toNat) (.ldSTVx x) ∧
    Decodes (0xF01E + 0x100 * x.toNat) (.addIVx x) ∧ Decodes (0xF029 + 0x100 * x.toNat) (.ldFVx x) ∧
    Decodes (0xF033 + 0x100 * x.toNat) (.ldBVx x) ∧ Decodes (0xF055 + 0x100 * x.toNat) (.ldMemVx x) ∧
    Decodes (0xF065 + 0x100 * x.toNat) (.ldVxMem x))

/-- R70, R71, R74: decoding the bytes of any well-formed instruction gives it back with every operand, whatever bytes
follow. The bit positions are the spec's own decision D3 (log entry 10). -/
def Obligations.DecodeOfEncode : Prop :=
  ∀ (i : Instr) (rest : List Byte), i.wellFormed = true →
    decodeWord (encode i) = .ok i ∧ decodeBytes (encodeBytes i ++ rest) = .ok (i, rest)

/-- R75, R76: a word that decodes is the encoding of what it decodes to, so no two words share an instruction. Strict
decoding is the spec's own decision D4 (log entry 10). -/
def Obligations.EncodeOfDecode : Prop :=
  ∀ (w : Word) (i : Instr), decodeWord w = .ok i → encode i = w

/-- R75: a word decodes exactly when some row of the opcode table has all its fixed digits, and then a row of the decoded
instruction's mnemonic is one. Strict decoding is the spec's own decision D4 (log entry 10). -/
def Obligations.DecodeAcceptsExactlyTheTable : Prop :=
  ∀ w : Word, ((∃ i, decodeWord w = .ok i) ↔ ∃ r ∈ opRows, w &&& r.mask = r.pat) ∧
    (∀ i, decodeWord w = .ok i → ∃ r ∈ opRows, r.mnemonic = i.mnemonic ∧ w &&& r.mask = r.pat)

/-- R76: the rows are pairwise disjoint; for each word at most one row admits it. The spec derives it from the map of its
decision D3 (log entry 10). -/
def Obligations.TableRowsDisjoint : Prop :=
  ∀ w : Word, ∀ r₁ ∈ opRows, ∀ r₂ ∈ opRows, w &&& r₁.mask = r₁.pat → w &&& r₂.mask = r₂.pat → r₁ = r₂

/-- R77: the unrecognised words, by high nibble. Strict decoding is the spec's own decision D4 (log entry 10). -/
def Obligations.UnrecognisedWordsByHighNibble : Prop :=
  ∀ w : Word, decodeWord w = .error (.unrecognised w) ↔
    (w.toNat / 0x1000 = 0x0 ∧ w.toNat ≠ 0x00E0 ∧ w.toNat ≠ 0x00EE) ∨
    (w.toNat / 0x1000 = 0x5 ∧ w.toNat % 0x10 ≠ 0) ∨
    (w.toNat / 0x1000 = 0x8 ∧ w.toNat % 0x10 ∈ [0x8, 0x9, 0xA, 0xB, 0xC, 0xD, 0xF]) ∨
    (w.toNat / 0x1000 = 0x9 ∧ w.toNat % 0x10 ≠ 0) ∨
    (w.toNat / 0x1000 = 0xE ∧ w.toNat % 0x100 ∉ [0x9E, 0xA1]) ∨
    (w.toNat / 0x1000 = 0xF ∧ w.toNat % 0x100 ∉ [0x07, 0x0A, 0x15, 0x18, 0x1E, 0x29, 0x33, 0x55, 0x65])

/-! ## The step cycle -/

/-- R54: an instruction word is fetched big-endian, each of the two byte addresses masked on its own. The masking of the
second byte is the spec's own decision D2 (log entry 10). -/
def Obligations.FetchWordIsBigEndian : Prop :=
  ∀ (s : State) (a : Word), (fetchWord s a).toNat =
    0x100 * (Memory.read s.mem (a.toNat % 4096)).toNat + (Memory.read s.mem ((a.toNat + 1) % 4096)).toNat

/-- R101 to R105: a Running step whose fetched word decodes to a well-formed `i` is `exec i` on the state with `pc`
advanced by 2 and the step's byte drawn, then the timer check, unless the execution raised an error. That no check follows
an error is the spec's own decision D17; the queue and the stored byte are the model's (log entries 5 and 6). -/
def Obligations.StepRunsDecodedInstruction : Prop :=
  ∀ (s : State) (now : Nat) (rand : Byte) (i : Instr), Running s → StepsWith s now rand →
    decodeBytes [memRead s s.pc.toNat, memRead s (s.pc.toNat + 1)] = .ok (i, []) → i.wellFormed = true →
    step s = match exec i { takeOp s with pc := s.pc + 2#16, rand := rand, reply := .step .ok } with
      | .next t => .next (if raised t then t else timerCheck t now)
      | .fault r => .fault r
      | .refused r => .refused r

/-- R106: a word that decode does not recognise raises UnknownOpcode after the advance. The report and the policy are the
spec's own decisions D17 and D18 (log entry 10). -/
def Obligations.UnrecognisedWordRaises : Prop :=
  ∀ (s : State) (now : Nat) (rand : Byte), Running s → StepsWith s now rand →
    decodeWord (fetchWord s s.pc) = .error (.unrecognised (fetchWord s s.pc)) →
    step s = .next { takeOp s with
      pc := s.pc + 2#16
      rand := rand
      halted := match s.params.errorPolicy with
        | .halt => some ⟨.unknownOpcode, 1, fetchWord s s.pc, s.pc⟩
        | .continueRunning => none
      reply := .step (.error ⟨.unknownOpcode, 1, fetchWord s s.pc, s.pc⟩) }

/-- R107 (with R108, R234, R235): a step that raises an error changes only `pc`, advanced by 2, and under `Halt` also
`halted`, which then holds the report the step returns. (The drawn byte, the queue and the reply are the model's own.) It
is the spec's own decision D17, with D18 and D19 (log entry 10). -/
def Obligations.ErrorStepChangesOnlyPc : Prop :=
  ∀ (s t : State) (now : Nat) (rand : Byte), Running s → StepsWith s now rand → step s = .next t → raised t = true →
    t = { takeOp s with pc := s.pc + 2#16, rand := rand, halted := t.halted, reply := t.reply } ∧
    (s.params.errorPolicy = .continueRunning → t.halted = none) ∧
    (s.params.errorPolicy = .halt → ∃ info, t.halted = some info ∧ t.reply = .step (.error info))

/-- R231, R232 (codes 1 to 3), R238: the report of a step error holds the fetched word, the address it was fetched from,
and the code of a kind that fits the word: CALL overflows, RET underflows, an unrecognised word is unknown. The report is
the spec's own decision D17 (log entry 10); how the model finds it is log entry 12. -/
def Obligations.ErrorReportNamesTheWord : Prop :=
  ∀ (s t : State) (now : Nat) (rand : Byte) (info : StepReport), Running s → StepsWith s now rand → step s = .next t →
    t.reply = .step (.error info) →
    info.word = fetchWord s s.pc ∧ info.addr = s.pc ∧
    ((info.kind = .unknownOpcode ∧ info.code = 1 ∧ ∀ i, decodeWord info.word ≠ .ok i) ∨
     (info.kind = .stackOverflow ∧ info.code = 2 ∧ ∃ nnn, decodeWord info.word = .ok (.call nnn)) ∨
     (info.kind = .stackUnderflow ∧ info.code = 3 ∧ decodeWord info.word = .ok .ret))

/-- R109: a Waiting step with no key pressed runs the timer check and nothing else, and returns Waiting. It is the spec's
own decision D14 (log entry 10). -/
def Obligations.WaitingStepWithoutKey : Prop :=
  ∀ (s : State) (x : Reg) (now : Nat) (rand : Byte), WaitingFor s x → StepsWith s now rand →
    (∀ k, keyPressed s k = false) →
    step s = .next { timerCheck (takeOp s) now with reply := .step .waiting }

/-- R110, R111: a Waiting step with a key pressed writes the least pressed key's index into the waiting register, empties
the slot, runs the timer check and fetches nothing. It is the spec's own decision D13, with D14 (log entry 10). -/
def Obligations.WaitingStepResolves : Prop :=
  ∀ (s : State) (x : Reg) (now : Nat) (rand : Byte) (k : Key), WaitingFor s x → StepsWith s now rand →
    keyPressed s k = true → (∀ j, j.toNat < k.toNat → keyPressed s j = false) →
    ∃ t, step s = .next t ∧ (getV t x).toNat = k.toNat ∧ OtherRegs s t x ∧
      t = { timerCheck (takeOp s) now with v := t.v, wait := none, reply := .step (.keyResolved k) }

/-- R112: a step taken in Halted(info) changes no state, `last_tick` included, and returns Halted(info). It is the spec's
own decision D19 (log entry 10). -/
def Obligations.HaltedStepChangesNothing : Prop :=
  ∀ (s : State) (info : StepReport) (now : Nat) (rand : Byte), s.halted = some info → StepsWith s now rand →
    step s = .next { takeOp s with reply := .step (.halted info) }

/-- R241, R242, R243: the timer check, with `elapsed = max(0, now - last_tick)`: when `60 * elapsed` reaches
`TIME_BASE_HZ` each non-zero counter goes down by exactly one and the time is recorded; otherwise nothing changes. It is
the spec's own decisions D15 and D16 (log entry 10). -/
def Obligations.TimerCheckTicks : Prop :=
  ∀ (s : State) (now : Nat),
    (((s.params.timeBaseHz : Nat) : Int) ≤ 60 * max 0 ((now : Int) - (s.lastTick : Int)) →
      (timerCheck s now).dt.toNat = s.dt.toNat - 1 ∧ (timerCheck s now).st.toNat = s.st.toNat - 1 ∧
      (timerCheck s now).lastTick = now) ∧
    (60 * max 0 ((now : Int) - (s.lastTick : Int)) < ((s.params.timeBaseHz : Nat) : Int) → timerCheck s now = s) ∧
    timerCheck s now = { s with dt := (timerCheck s now).dt, st := (timerCheck s now).st,
                                lastTick := (timerCheck s now).lastTick }

/-- R244: over checks whose times lie in a half-open interval of `S` units there are at most `ceil(60 * S / TIME_BASE_HZ)`
ticks, and neither counter loses more than that. The spec derives it from its decision D15 (log entry 10). The premise of
R258 is not needed. -/
def Obligations.TickRateIsBounded : Prop :=
  ∀ (s : State) (start S : Nat) (nows : List Nat), (∀ n ∈ nows, start ≤ n ∧ n < start + S) →
    tickCount s nows ≤ (60 * S + (s.params.timeBaseHz : Nat) - 1) / (s.params.timeBaseHz : Nat) ∧
    s.dt.toNat ≤ (nows.foldl timerCheck s).dt.toNat + tickCount s nows ∧
    s.st.toNat ≤ (nows.foldl timerCheck s).st.toNat + tickCount s nows

/-- R278: the timer check follows the instruction in the same step. LD DT,Vx or LD ST,Vx with a tick due leaves its
counter one below Vx (0 stays 0), and LD Vx,DT reads DT before that step's tick. The spec derives it from R105 and its
decision D15 (log entry 10). -/
def Obligations.TimerInstructionsThenTick : Prop :=
  ∀ (s : State) (now : Nat) (rand : Byte) (x : Reg), Running s → StepsWith s now rand →
    (s.params.timeBaseHz : Nat) ≤ 60 * (now - s.lastTick) →
    (decodeWord (fetchWord s s.pc) = .ok (.ldDTVx x) →
      ∃ t, step s = .next t ∧ t.dt.toNat = (getV s x).toNat - 1 ∧ t.lastTick = now) ∧
    (decodeWord (fetchWord s s.pc) = .ok (.ldSTVx x) →
      ∃ t, step s = .next t ∧ t.st.toNat = (getV s x).toNat - 1 ∧ t.lastTick = now) ∧
    (decodeWord (fetchWord s s.pc) = .ok (.ldVxDT x) →
      ∃ t, step s = .next t ∧ getV t x = s.dt ∧ t.dt.toNat = s.dt.toNat - 1)

/-! ## The host interface -/

/-- R270, R272: `reset(now)` from any state, Halted or Waiting included, gives every piece of state its value of R38. The
time of the reset is the spec's own decision D22 the font D6 and D7 and the empty `halted` D19 (log entry 10). -/
def Obligations.ResetOperation : Prop :=
  ∀ (s : State) (now : Nat), nextOp s = .reset now →
    ∃ t, step s = .next t ∧ (∀ a, memRead t a = Config.fontData.getD (a % 4096) 0x00#8) ∧
      (∀ r, getV t r = 0x00#8) ∧ t.i = 0x0000#16 ∧ t.pc = 0x0200#16 ∧ t.stack = [] ∧ t.dt = 0x00#8 ∧ t.st = 0x00#8 ∧
      t.lastTick = now ∧ (∀ y x, pixel t.fb y x = false) ∧ (∀ k, keyPressed t k = false) ∧ Running t ∧
      t.params = s.params

/-- R38: the state right after reset. (`last_tick` is the reset's `now`, a free value of the model, log entry 3.) The
font's place and bytes are the spec's own decisions D6 and D7, the empty `halted` D19 (log entry 10). -/
def Obligations.ResetStateValues : Prop :=
  (∀ a, memRead State.reset a = Config.fontData.getD (a % 4096) 0x00#8) ∧
  (∀ r, getV State.reset r = 0x00#8) ∧ State.reset.i = 0x0000#16 ∧ State.reset.pc = 0x0200#16 ∧
  State.reset.stack = [] ∧ State.reset.dt = 0x00#8 ∧ State.reset.st = 0x00#8 ∧
  State.reset.lastTick = Config.resetNow ∧ (∀ y x, pixel State.reset.fb y x = false) ∧
  (∀ k, keyPressed State.reset k = false) ∧ Running State.reset

/-- R273: `load_program` of bytes that fit writes them from 0x200 upward and changes no other byte and no other state. It
is the spec's own decision D23 (log entry 10). -/
def Obligations.LoadProgramInstalls : Prop :=
  ∀ (s : State) (bytes : List Byte), nextOp s = .loadProgram bytes → 0x200 + bytes.length ≤ 0x1000 →
    ∃ t, step s = .next t ∧ t = { takeOp s with mem := t.mem, reply := .loaded } ∧
      (∀ k (h : k < bytes.length), memRead t (0x200 + k) = bytes[k]) ∧
      (∀ a < 4096, (a < 0x200 ∨ 0x200 + bytes.length ≤ a) → memRead t a = memRead s a)

/-- R274: `load_program` of bytes that do not fit writes nothing, changes no state and reports ProgramTooLarge. It is the
spec's own decision D23, and the report D17 (log entry 10). -/
def Obligations.LoadProgramTooLarge : Prop :=
  ∀ (s : State) (bytes : List Byte), nextOp s = .loadProgram bytes → 0x1000 < 0x200 + bytes.length →
    step s = .next { takeOp s with reply := .tooLarge ⟨.programTooLarge, 4, bytes.length⟩ }

/-- R255: `set_key` writes one key flag and changes nothing else. The width of the index is the spec's own decision D26
(log entry 10). -/
def Obligations.SetKeyWritesOneFlag : Prop :=
  ∀ (s : State) (k : Key) (pressed : Bool), nextOp s = .setKey k pressed →
    ∃ t, step s = .next t ∧ keyPressed t k = pressed ∧ (∀ j, j ≠ k → keyPressed t j = keyPressed s j) ∧
      t = { takeOp s with keys := t.keys, reply := .none }

/-- R254, R256: the snapshot and the two timer accessors return what the state holds and change no state. -/
def Obligations.HostReadsChangeNothing : Prop :=
  ∀ s : State,
    (nextOp s = .readFramebuffer → ∃ t fb, step s = .next t ∧ t = { takeOp s with reply := .snapshot fb } ∧
      ∀ y x, pixel fb y x = pixel s.fb y x) ∧
    (nextOp s = .delayTimer → step s = .next { takeOp s with reply := .timer s.dt }) ∧
    (nextOp s = .soundTimer → step s = .next { takeOp s with reply := .timer s.st })

/-- R112, R234: only reset leaves the Halted state; until then no operation changes a register, `pc`, the stack, the
timers or the framebuffer (the host may still load memory and set keys). It is the spec's own decision D19 (log entry 10).
-/
def Obligations.HaltedUntilReset : Prop :=
  ∀ (s t : State) (info : StepReport), s.halted = some info → (∀ now, nextOp s ≠ .reset now) → step s = .next t →
    t = { takeOp s with mem := t.mem, keys := t.keys, reply := t.reply }

/-- R272, R217: until a reset, or a step that finds a key pressed, a waiting core keeps waiting at the same `pc` with the
same registers, stack and framebuffer, whatever the host does. The spec derives both rules; that a waiting step changes
none of these is its own decision D14 (log entry 10). -/
def Obligations.WaitEndsOnlyByKeyOrReset : Prop :=
  ∀ (s t : State) (x : Reg), WaitingFor s x → (∀ k, keyPressed s k = false) → (∀ now, nextOp s ≠ .reset now) →
    step s = .next t →
    WaitingFor t x ∧ t.pc = s.pc ∧ t.v = s.v ∧ t.i = s.i ∧ t.stack = s.stack ∧ t.fb = s.fb

/-! ## Whole-machine rules -/

/-- Every step of a good state leaves a good state. `I` in 0x000 to 0xFFF is R27, which the spec itself derives. The bound
of 16 on the stack is R28, the spec's own decision D20 (log entry 10), with the model's list and test of it (log entry
11). That `wait` and `halted` are not both set is R35, the spec's own decision D19 (log entry 10). The canonical form of
memory is no rule of the spec: it is the model's own form of memory (log entry 9). -/
def Obligations.StepKeepsGoodStates : Prop :=
  ∀ s t : State, s.Inv → step s = .next t → t.Inv

/-- The state after reset is a good state: the base of StepKeepsGoodStates. The empty stack, `I` = 0 and the empty `wait`
and `halted` are R38's (the empty `halted` by the spec's own decision D19, log entry 10). The canonical form of memory is
no rule of the spec: it is the model's own form of memory, whose reset list is empty (log entry 9). -/
def Obligations.ResetIsGood : Prop := State.reset.Inv

/-- The model's reading, log entry 1: in every state, for every operation of the host, the machine answers a next state,
with no fault and no refusal. It rests on R115 (a step always ends, which the spec itself derives) for `step` alone, and
on R251, R252, R254 to R256, R270, R273 and R274 for the host's other operations; that one step of the machine is one
operation of the host is the model's choice (log entry 6). -/
def Obligations.EveryStepAnswers : Prop := ∀ s : State, ∃ t, step s = .next t

/-- R37: the parameters are fixed for the life of the instance; no operation changes them. That they stand in the state is
the model's choice (log entry 2). -/
def Obligations.ParametersNeverChange : Prop := ∀ s t : State, step s = .next t → t.params = s.params

/-- R20, R21: an instruction writes no register but its named destination, and VF where R21 lists the instruction. -/
def Obligations.UnnamedRegistersKeep : Prop :=
  ∀ (i : Instr) (s t : State) (r : Reg), exec i s = .next t → writesReg i r = false → getV t r = getV s r

/-- R53, R58: LD B,Vx stores 3 bytes and LD [I],Vx `x + 1` bytes from the address in `I`; every other byte, and every byte
under every other instruction, reads as before. -/
def Obligations.UnstoredBytesKeep : Prop :=
  ∀ (i : Instr) (s t : State) (a : Nat), exec i s = .next t → maskAddr a ∉ storedAddrs i s → memRead t a = memRead s a

/-- R25, R27, R28, R30 to R34, R37: what the execute phase leaves alone apart from registers and memory. Only LD I, ADD I
and LD F write `I`; only CALL and RET the stack; only LD DT the delay timer, LD ST the sound timer; only CLS and DRW the
framebuffer; only LD Vx,K the wait slot; only CALL and RET can raise (`halted` and the result); only jumps, calls, returns
and skips move `pc` again; nothing writes `last_tick`, the keys or the host's fields. (That an error sets `halted` is the
spec's own decisions D17 to D19, log entry 10.) -/
def Obligations.OtherStateKeeps : Prop :=
  ∀ (i : Instr) (s t : State), exec i s = .next t →
    (t.lastTick = s.lastTick ∧ t.keys = s.keys ∧ t.params = s.params ∧ t.rand = s.rand ∧ t.inbox = s.inbox ∧
      t.opNo = s.opNo) ∧
    (t.i ≠ s.i → (∃ a, i = .ldI a) ∨ (∃ x, i = .addIVx x) ∨ (∃ x, i = .ldFVx x)) ∧
    (t.stack ≠ s.stack → i = .ret ∨ ∃ a, i = .call a) ∧
    (t.dt ≠ s.dt → ∃ x, i = .ldDTVx x) ∧ (t.st ≠ s.st → ∃ x, i = .ldSTVx x) ∧
    (t.fb ≠ s.fb → i = .cls ∨ ∃ x y n, i = .drw x y n) ∧
    (t.wait ≠ s.wait → ∃ x, i = .ldVxK x) ∧
    (t.halted ≠ s.halted ∨ t.reply ≠ s.reply → i = .ret ∨ ∃ a, i = .call a) ∧
    (t.pc ≠ s.pc → i = .ret ∨ (∃ a, i = .call a) ∨ (∃ a, i = .jp a) ∨ (∃ a, i = .jpV0 a) ∨
      t.pc = s.pc + 2#16 ∧ ((∃ x k, i = .seByte x k) ∨ (∃ x k, i = .sneByte x k) ∨ (∃ x y, i = .seReg x y) ∨
        (∃ x y, i = .sneReg x y) ∨ (∃ x, i = .skp x) ∨ (∃ x, i = .sknp x)))

/-- R32: programs cannot read the framebuffer but through DRW: of every instruction but CLS and DRW, what it does to all
other state does not depend on the framebuffer, and it passes the framebuffer on. -/
def Obligations.FramebufferIsUnreadable : Prop :=
  ∀ (i : Instr) (s t : State) (fb : Framebuffer), i ≠ .cls → (∀ x y n, i ≠ .drw x y n) → exec i s = .next t →
    exec i { s with fb := fb } = .next { t with fb := fb }

/-- R30: no instruction reads ST: from two states that differ in ST alone, the execute phase leaves states that differ at
most in ST. -/
def Obligations.SoundTimerIsUnreadable : Prop :=
  ∀ (i : Instr) (s t : State) (b : Byte), exec i s = .next t →
    ∃ u, exec i { s with st := b } = .next u ∧ u = { t with st := u.st }

/-! ## Control flow -/

/-- R121: RET. The clause on the empty stack holds the report and the policy of the spec's own decisions D17 and D18 (log
entry 10), and its address is log entry 12. The words are those of the spec's own decision D3 (log entry 10). -/
def Obligations.RetRule : Prop :=
  Decodes 0x00EE .ret ∧
  (∀ (s : State) (w : Word) (rest : List Word), s.stack = w :: rest →
    exec .ret s = .next { s with pc := w, stack := rest }) ∧
  (∀ s : State, s.stack = [] → ∃ t, exec .ret s = .next t ∧
    t = { s with halted := t.halted, reply := .step (.error ⟨.stackUnderflow, 3, 0x00EE#16, s.pc - 2#16⟩) } ∧
    t.halted = match s.params.errorPolicy with
      | .halt => some ⟨.stackUnderflow, 3, 0x00EE#16, s.pc - 2#16⟩
      | .continueRunning => s.halted)

/-- R122: JP addr. The word is encoded as R122 states it (its bit positions: log entry 10). -/
def Obligations.JpRule : Prop :=
  ∀ (nnn : Addr) (s : State), Decodes (0x1000 + nnn.toNat) (.jp nnn) ∧
    ∃ t, exec (.jp nnn) s = .next t ∧ t.pc.toNat = nnn.toNat ∧ OnlyPc s t

/-- R123: CALL addr. The clause on the full stack holds the depth, the report and the policy of the spec's own decisions
D20, D17 and D18 (log entry 10), and its address is log entry 12. The words are those of the spec's own decision D3 (log
entry 10). -/
def Obligations.CallRule : Prop :=
  ∀ (nnn : Addr) (s : State), Decodes (0x2000 + nnn.toNat) (.call nnn) ∧
    (s.stack.length < 16 → ∃ t, exec (.call nnn) s = .next t ∧ t.pc.toNat = nnn.toNat ∧
      t = { s with pc := t.pc, stack := s.pc :: s.stack }) ∧
    (s.stack.length = 16 → ∃ t, exec (.call nnn) s = .next t ∧
      t = { s with halted := t.halted,
                   reply := .step (.error ⟨.stackOverflow, 2, BitVec.ofNat 16 (0x2000 + nnn.toNat), s.pc - 2#16⟩) } ∧
      t.halted = match s.params.errorPolicy with
        | .halt => some ⟨.stackOverflow, 2, BitVec.ofNat 16 (0x2000 + nnn.toNat), s.pc - 2#16⟩
        | .continueRunning => s.halted)

/-- R120, R124, R125: SE Vx,byte and SNE Vx,byte. The words are encoded as R124 and R125 state them (their bit positions:
log entry 10). -/
def Obligations.SkipOnByteRule : Prop :=
  ∀ (x : Reg) (kk : Byte) (s : State),
    Decodes (0x3000 + 0x100 * x.toNat + kk.toNat) (.seByte x kk) ∧
    Decodes (0x4000 + 0x100 * x.toNat + kk.toNat) (.sneByte x kk) ∧
    (∃ t, exec (.seByte x kk) s = .next t ∧ OnlyPc s t ∧
      t.pc.toNat = (s.pc.toNat + if getV s x = kk then 2 else 0) % 0x10000) ∧
    (∃ t, exec (.sneByte x kk) s = .next t ∧ OnlyPc s t ∧
      t.pc.toNat = (s.pc.toNat + if getV s x = kk then 0 else 2) % 0x10000)

/-- R120, R126, R127: SE Vx,Vy and SNE Vx,Vy. The words are those of the spec's own decisions D3 and D4 (log entry 10). -/
def Obligations.SkipOnRegisterRule : Prop :=
  ∀ (x y : Reg) (s : State),
    Decodes (0x5000 + 0x100 * x.toNat + 0x10 * y.toNat) (.seReg x y) ∧
    Decodes (0x9000 + 0x100 * x.toNat + 0x10 * y.toNat) (.sneReg x y) ∧
    (∀ n, 0 < n → n < 16 → ∀ i, ¬ Decodes (0x5000 + 0x100 * x.toNat + 0x10 * y.toNat + n) i ∧
      ¬ Decodes (0x9000 + 0x100 * x.toNat + 0x10 * y.toNat + n) i) ∧
    (∃ t, exec (.seReg x y) s = .next t ∧ OnlyPc s t ∧
      t.pc.toNat = (s.pc.toNat + if getV s x = getV s y then 2 else 0) % 0x10000) ∧
    (∃ t, exec (.sneReg x y) s = .next t ∧ OnlyPc s t ∧
      t.pc.toNat = (s.pc.toNat + if getV s x = getV s y then 0 else 2) % 0x10000)

/-- R128: JP V0,addr; the sum is not reduced to 12 bits, and the offset register is V0 whatever the digits. The unreduced
sum is the spec's own decision D1 (log entry 10). The words are those of the spec's own decision D3 (log entry 10). -/
def Obligations.JpV0Rule : Prop :=
  ∀ (nnn : Addr) (s : State), Decodes (0xB000 + nnn.toNat) (.jpV0 nnn) ∧
    ∃ t, exec (.jpV0 nnn) s = .next t ∧ t.pc.toNat = nnn.toNat + (getV s 0x0#4).toNat ∧ OnlyPc s t

/-- R282, R122: a core at a jump to itself does not stop: a step leaves it at the same jump, and only its timers may have
ticked. The end state E2 is the spec's own decision D28 (log entry 10). -/
def Obligations.SelfJumpRepeats : Prop :=
  ∀ (s : State) (now : Nat) (rand : Byte), AtSelfJump s → StepsWith s now rand →
    ∃ t, step s = .next t ∧ t = { timerCheck (takeOp s) now with rand := rand, reply := .step .ok } ∧ AtSelfJump t

/-! ## Register loads and arithmetic -/

/-- R140, R142: LD Vx,byte and LD Vx,Vy. The words are encoded as R140 and R142 state them (their bit positions: log entry
10). -/
def Obligations.RegisterLoadRule : Prop :=
  ∀ (x y : Reg) (kk : Byte) (s : State),
    Decodes (0x6000 + 0x100 * x.toNat + kk.toNat) (.ldByte x kk) ∧
    Decodes (0x8000 + 0x100 * x.toNat + 0x10 * y.toNat) (.ldReg x y) ∧
    (∃ t, exec (.ldByte x kk) s = .next t ∧ getV t x = kk ∧ OtherRegs s t x ∧ OnlyRegs s t) ∧
    (∃ t, exec (.ldReg x y) s = .next t ∧ getV t x = getV s y ∧ OtherRegs s t x ∧ OnlyRegs s t)

/-- R141: ADD Vx,byte; VF is not written as a side effect. The word is encoded as R141 states it (its bit positions: log
entry 10). -/
def Obligations.AddByteRule : Prop :=
  ∀ (x : Reg) (kk : Byte) (s : State), Decodes (0x7000 + 0x100 * x.toNat + kk.toNat) (.addByte x kk) ∧
    ∃ t, exec (.addByte x kk) s = .next t ∧ (getV t x).toNat = ((getV s x).toNat + kk.toNat) % 256 ∧
      OtherRegs s t x ∧ OnlyRegs s t

/-- R143, R144, R145: OR, AND and XOR, bit by bit; VF is not written as a side effect. That VF is left alone is the spec's
own decision D10 (log entry 10). The words are those of the spec's own decision D3 (log entry 10). -/
def Obligations.BitwiseRule : Prop :=
  ∀ (x y : Reg) (s : State),
    Decodes (0x8001 + 0x100 * x.toNat + 0x10 * y.toNat) (.orReg x y) ∧
    Decodes (0x8002 + 0x100 * x.toNat + 0x10 * y.toNat) (.andReg x y) ∧
    Decodes (0x8003 + 0x100 * x.toNat + 0x10 * y.toNat) (.xorReg x y) ∧
    (∃ t, exec (.orReg x y) s = .next t ∧ OtherRegs s t x ∧ OnlyRegs s t ∧
      ∀ b, (getV t x).getLsbD b = ((getV s x).getLsbD b || (getV s y).getLsbD b)) ∧
    (∃ t, exec (.andReg x y) s = .next t ∧ OtherRegs s t x ∧ OnlyRegs s t ∧
      ∀ b, (getV t x).getLsbD b = ((getV s x).getLsbD b && (getV s y).getLsbD b)) ∧
    (∃ t, exec (.xorReg x y) s = .next t ∧ OtherRegs s t x ∧ OnlyRegs s t ∧
      ∀ b, (getV t x).getLsbD b = ((getV s x).getLsbD b ^^ (getV s y).getLsbD b))

/-- R146, R22: ADD Vx,Vy: the sum modulo 256, then VF the carry; with x = F the carry stands. The order of the two writes
is R146's own, and the spec's decision D10 (log entry 10). The words are those of the spec's own decision D3 (log entry
10). -/
def Obligations.AddRegRule : Prop :=
  ∀ (x y : Reg) (s : State), Decodes (0x8004 + 0x100 * x.toNat + 0x10 * y.toNat) (.addReg x y) ∧
    ∃ t, exec (.addReg x y) s = .next t ∧ OnlyRegs s t ∧ OtherRegsAndVF s t x ∧
      (x ≠ 0xF#4 → (getV t x).toNat = ((getV s x).toNat + (getV s y).toNat) % 256) ∧
      (getV t 0xF#4).toNat = if 256 ≤ (getV s x).toNat + (getV s y).toNat then 1 else 0

/-- R147, R149, R22: SUB and SUBN: the difference modulo 256, then VF the NOT borrow. The order of the two writes is each
rule's own, and the spec's decision D10 (log entry 10). The words are those of the spec's own decision D3 (log entry 10).
-/
def Obligations.SubtractRule : Prop :=
  ∀ (x y : Reg) (s : State),
    Decodes (0x8005 + 0x100 * x.toNat + 0x10 * y.toNat) (.subReg x y) ∧
    Decodes (0x8007 + 0x100 * x.toNat + 0x10 * y.toNat) (.subnReg x y) ∧
    (∃ t, exec (.subReg x y) s = .next t ∧ OnlyRegs s t ∧ OtherRegsAndVF s t x ∧
      (x ≠ 0xF#4 → ((getV t x).toNat : Int) = ((getV s x).toNat - (getV s y).toNat : Int) % 256) ∧
      (getV t 0xF#4).toNat = if (getV s y).toNat ≤ (getV s x).toNat then 1 else 0) ∧
    (∃ t, exec (.subnReg x y) s = .next t ∧ OnlyRegs s t ∧ OtherRegsAndVF s t x ∧
      (x ≠ 0xF#4 → ((getV t x).toNat : Int) = ((getV s y).toNat - (getV s x).toNat : Int) % 256) ∧
      (getV t 0xF#4).toNat = if (getV s x).toNat ≤ (getV s y).toNat then 1 else 0)

/-- R148, R150, R152, R22: SHR and SHL under either `SHIFT_SOURCE`: Vx is the shifted source, then VF the bit shifted out.
The source operand is OPEN (decision D9), the order of the two writes is decision D10 (log entry 10). The words are those
of the spec's own decision D3 (log entry 10). -/
def Obligations.ShiftRule : Prop :=
  ∀ (x y : Reg) (s : State),
    let src : Byte := if s.params.shiftSource = .vx then getV s x else getV s y
    Decodes (0x8006 + 0x100 * x.toNat + 0x10 * y.toNat) (.shr x y) ∧
    Decodes (0x800E + 0x100 * x.toNat + 0x10 * y.toNat) (.shl x y) ∧
    (∃ t, exec (.shr x y) s = .next t ∧ OnlyRegs s t ∧ OtherRegsAndVF s t x ∧
      (x ≠ 0xF#4 → (getV t x).toNat = src.toNat / 2) ∧ (getV t 0xF#4).toNat = src.toNat % 2) ∧
    (∃ t, exec (.shl x y) s = .next t ∧ OnlyRegs s t ∧ OtherRegsAndVF s t x ∧
      (x ≠ 0xF#4 → (getV t x).toNat = 2 * src.toNat % 256) ∧ (getV t 0xF#4).toNat = src.toNat / 128)

/-- R151: RND Vx,byte: in the execute phase the byte drawn for the step, masked; and a whole step with the byte `rand`
leaves `rand AND kk` in Vx, whatever `rand` is. The free byte is the spec's own decision D21 (log entry 10); the field
that holds it is log entry 5. The words are those of the spec's own decision D3 (log entry 10). -/
def Obligations.RandomRule : Prop :=
  ∀ (x : Reg) (kk : Byte) (s : State), Decodes (0xC000 + 0x100 * x.toNat + kk.toNat) (.rnd x kk) ∧
    (∃ t, exec (.rnd x kk) s = .next t ∧ OtherRegs s t x ∧ OnlyRegs s t ∧
      ∀ b, (getV t x).getLsbD b = (s.rand.getLsbD b && kk.getLsbD b)) ∧
    (∀ (now : Nat) (rand : Byte), Running s → StepsWith s now rand →
      decodeWord (fetchWord s s.pc) = .ok (.rnd x kk) →
      ∃ t, step s = .next t ∧ OtherRegs s t x ∧
        ∀ b, (getV t x).getLsbD b = (rand.getLsbD b && kk.getLsbD b))

/-! ## Display -/

/-- R170: CLS clears every pixel and changes nothing else. The word is encoded as R170 states it (its bit positions: log
entry 10). -/
def Obligations.ClsRule : Prop :=
  ∀ s : State, Decodes 0x00E0 .cls ∧
    ∃ t, exec .cls s = .next t ∧ (∀ y x, pixel t.fb y x = false) ∧ t = { s with fb := t.fb }

/-- R171 to R177: DRW inverts exactly the pixels a 1 bit of the sprite lands on, with both coordinates wrapped for every
pixel; VF becomes 1 when one of them was 1 before the instruction and 0 otherwise; nothing else changes. The order of the
sprite's bits is the spec's own decision D8, the operand timing D10 and the masked rows D2 (log entry 10). The words are
those of the spec's own decision D3 (log entry 10). -/
def Obligations.DrawRule : Prop :=
  ∀ (x y : Reg) (n : RowCount) (s : State),
    Decodes (0xD000 + 0x100 * x.toNat + 0x10 * y.toNat + n.toNat) (.drw x y n) ∧
    ∃ t, exec (.drw x y n) s = .next t ∧
      (∀ py px, Lands s x y n py px → pixel t.fb py px = !pixel s.fb py px) ∧
      (∀ py px, ¬ Lands s x y n py px → pixel t.fb py px = pixel s.fb py px) ∧
      ((∃ py px, Lands s x y n py px ∧ pixel s.fb py px = true) → getV t 0xF#4 = 0x01#8) ∧
      ((¬ ∃ py px, Lands s x y n py px ∧ pixel s.fb py px = true) → getV t 0xF#4 = 0x00#8) ∧
      OtherRegs s t 0xF#4 ∧ t = { s with fb := t.fb, v := t.v }

/-! ## Index register and memory -/

/-- R52, R53: a read takes any address and returns the byte its low 12 bits select; a write sets that byte, changes no other
byte and no other state. -/
def Obligations.MemoryAccess : Prop :=
  ∀ (s : State) (addr : Nat) (w : Byte),
    memRead s addr = Memory.read s.mem (addr % 4096) ∧
    (∀ b, b % 4096 = addr % 4096 → memRead (memWrite s addr w) b = w) ∧
    (∀ b, b % 4096 ≠ addr % 4096 → memRead (memWrite s addr w) b = memRead s b) ∧ OnlyMem s (memWrite s addr w)

/-- R190, R191, R192: LD I,addr; ADD I,Vx modulo 4096; LD F,Vx, the glyph address for the low nibble of Vx. The font's
place is the spec's own decision D6 (log entry 10). The words are those of the spec's own decision D3 (log entry 10). -/
def Obligations.IndexRule : Prop :=
  ∀ (nnn : Addr) (x : Reg) (s : State),
    Decodes (0xA000 + nnn.toNat) (.ldI nnn) ∧ Decodes (0xF01E + 0x100 * x.toNat) (.addIVx x) ∧
    Decodes (0xF029 + 0x100 * x.toNat) (.ldFVx x) ∧
    (∃ t, exec (.ldI nnn) s = .next t ∧ t.i.toNat = nnn.toNat ∧ OnlyI s t) ∧
    (∃ t, exec (.addIVx x) s = .next t ∧ t.i.toNat = (s.i.toNat + (getV s x).toNat) % 4096 ∧ OnlyI s t) ∧
    (∃ t, exec (.ldFVx x) s = .next t ∧ t.i.toNat = 5 * ((getV s x).toNat % 16) ∧ OnlyI s t)

/-- R193, R55: LD B,Vx writes the hundreds, tens and units of Vx at `I`, `I + 1`, `I + 2`, each address masked, and
changes no other byte; `I` is unchanged. The masking byte by byte is the spec's own decision D2, the unchanged `I` D11
(log entry 10). The words are those of the spec's own decision D3 (log entry 10). -/
def Obligations.DecimalStoreRule : Prop :=
  ∀ (x : Reg) (s : State), Decodes (0xF033 + 0x100 * x.toNat) (.ldBVx x) ∧
    ∃ t, exec (.ldBVx x) s = .next t ∧
      (memRead t (indexAddr s)).toNat = (getV s x).toNat / 100 ∧
      (memRead t (indexAddr s + 1)).toNat = (getV s x).toNat / 10 % 10 ∧
      (memRead t (indexAddr s + 2)).toNat = (getV s x).toNat % 10 ∧
      (∀ a, maskAddr a ≠ maskAddr (indexAddr s) → maskAddr a ≠ maskAddr (indexAddr s + 1) →
        maskAddr a ≠ maskAddr (indexAddr s + 2) → memRead t a = memRead s a) ∧ OnlyMem s t

/-- R194, R55, R196: LD [I],Vx writes V0 to Vx inclusive at `I`, `I + 1`, ..., each address masked, and changes no other
byte; `I` is unchanged. The masking byte by byte is the spec's own decision D2, the unchanged `I` D11 (log entry 10). The
words are those of the spec's own decision D3 (log entry 10). -/
def Obligations.BlockStoreRule : Prop :=
  ∀ (x : Reg) (s : State), Decodes (0xF055 + 0x100 * x.toNat) (.ldMemVx x) ∧
    ∃ t, exec (.ldMemVx x) s = .next t ∧
      (∀ r : Reg, r.toNat ≤ x.toNat → memRead t (indexAddr s + r.toNat) = getV s r) ∧
      (∀ a, (∀ k ≤ x.toNat, maskAddr a ≠ maskAddr (indexAddr s + k)) → memRead t a = memRead s a) ∧ OnlyMem s t

/-- R195, R55, R196: LD Vx,[I] loads V0 to Vx inclusive from `I`, `I + 1`, ..., each address masked, and changes no other
register; `I` is unchanged. The masking byte by byte is the spec's own decision D2, the unchanged `I` D11 (log entry 10).
The words are those of the spec's own decision D3 (log entry 10). -/
def Obligations.BlockLoadRule : Prop :=
  ∀ (x : Reg) (s : State), Decodes (0xF065 + 0x100 * x.toNat) (.ldVxMem x) ∧
    ∃ t, exec (.ldVxMem x) s = .next t ∧
      (∀ r : Reg, r.toNat ≤ x.toNat → getV t r = Memory.read s.mem ((s.i.toNat + r.toNat) % 4096)) ∧
      (∀ r : Reg, x.toNat < r.toNat → getV t r = getV s r) ∧ OnlyRegs s t

/-- R66: code is data. After LD [I],Vx with x at least 1, a fetch at the address in `I` reads the word just stored. The
spec derives it from R59 and R63, with the masking of its decision D2 (log entry 10). -/
def Obligations.StoredCodeIsFetched : Prop :=
  ∀ (x : Reg) (s t : State), 1 ≤ x.toNat → exec (.ldMemVx x) s = .next t →
    (fetchWord t s.i).toNat = 0x100 * (getV s 0x0#4).toNat + (getV s 0x1#4).toNat

/-! ## Keys and timers -/

/-- R210, R211, R212, R120: SKP and SKNP, on the key in the low nibble of Vx. The low nibble is the spec's own decision
D12 (log entry 10). The words are those of the spec's own decision D3 (log entry 10). -/
def Obligations.KeySkipRule : Prop :=
  ∀ (x : Reg) (s : State),
    let k : Key := BitVec.ofNat 4 ((getV s x).toNat % 16)
    Decodes (0xE09E + 0x100 * x.toNat) (.skp x) ∧ Decodes (0xE0A1 + 0x100 * x.toNat) (.sknp x) ∧
    (∃ t, exec (.skp x) s = .next t ∧ OnlyPc s t ∧
      t.pc.toNat = (s.pc.toNat + if keyPressed s k = true then 2 else 0) % 0x10000) ∧
    (∃ t, exec (.sknp x) s = .next t ∧ OnlyPc s t ∧
      t.pc.toNat = (s.pc.toNat + if keyPressed s k = true then 0 else 2) % 0x10000)

/-- R213, R214, R215: LD Vx,DT, LD DT,Vx and LD ST,Vx in the execute phase. (The tick that may follow in the same step is
TimerInstructionsThenTick.) The words are those of the spec's own decision D3 (log entry 10). -/
def Obligations.TimerAccessRule : Prop :=
  ∀ (x : Reg) (s : State),
    Decodes (0xF007 + 0x100 * x.toNat) (.ldVxDT x) ∧ Decodes (0xF015 + 0x100 * x.toNat) (.ldDTVx x) ∧
    Decodes (0xF018 + 0x100 * x.toNat) (.ldSTVx x) ∧
    (∃ t, exec (.ldVxDT x) s = .next t ∧ getV t x = s.dt ∧ OtherRegs s t x ∧ OnlyRegs s t) ∧
    (∃ t, exec (.ldDTVx x) s = .next t ∧ t = { s with dt := getV s x }) ∧
    (∃ t, exec (.ldSTVx x) s = .next t ∧ t = { s with st := getV s x })

/-- R216: LD Vx,K. The execute phase only fills the wait slot, and a whole step leaves the core in Waiting(x) at `a + 2`
with its registers unchanged and returns Ok, whatever the keys. The result Ok is the spec's own decision D27 (log entry
10). The words are those of the spec's own decision D3 (log entry 10). -/
def Obligations.KeyWaitRule : Prop :=
  ∀ (x : Reg) (s : State), Decodes (0xF00A + 0x100 * x.toNat) (.ldVxK x) ∧
    exec (.ldVxK x) s = .next { s with wait := some x } ∧
    (∀ (now : Nat) (rand : Byte), Running s → StepsWith s now rand →
      decodeWord (fetchWord s s.pc) = .ok (.ldVxK x) →
      ∃ t, step s = .next t ∧ WaitingFor t x ∧ t.pc = s.pc + 2#16 ∧ t.v = s.v ∧ t.reply = .step .ok ∧
        t.dt = (timerCheck s now).dt ∧ t.st = (timerCheck s now).st ∧ t.lastTick = (timerCheck s now).lastTick)
end

