-- ==== Sys2Proof/Laws/State.lean ====
section
/-! SUPPORT. One lemma per field per update of the state, each true by `rfl`, so that no later proof unfolds a record
update. -/

namespace Sys2Proof.Machine

/-! ### `setV` -/

@[simp] theorem setV_mem (s : State) (x : Reg) (w : Byte) : (setV s x w).mem = s.mem := rfl
@[simp] theorem setV_v (s : State) (x : Reg) (w : Byte) : (setV s x w).v = s.v.set x.toNat w x.isLt := rfl
@[simp] theorem setV_i (s : State) (x : Reg) (w : Byte) : (setV s x w).i = s.i := rfl
@[simp] theorem setV_pc (s : State) (x : Reg) (w : Byte) : (setV s x w).pc = s.pc := rfl
@[simp] theorem setV_stack (s : State) (x : Reg) (w : Byte) : (setV s x w).stack = s.stack := rfl
@[simp] theorem setV_dt (s : State) (x : Reg) (w : Byte) : (setV s x w).dt = s.dt := rfl
@[simp] theorem setV_st (s : State) (x : Reg) (w : Byte) : (setV s x w).st = s.st := rfl
@[simp] theorem setV_lastTick (s : State) (x : Reg) (w : Byte) : (setV s x w).lastTick = s.lastTick := rfl
@[simp] theorem setV_fb (s : State) (x : Reg) (w : Byte) : (setV s x w).fb = s.fb := rfl
@[simp] theorem setV_keys (s : State) (x : Reg) (w : Byte) : (setV s x w).keys = s.keys := rfl
@[simp] theorem setV_wait (s : State) (x : Reg) (w : Byte) : (setV s x w).wait = s.wait := rfl
@[simp] theorem setV_halted (s : State) (x : Reg) (w : Byte) : (setV s x w).halted = s.halted := rfl
@[simp] theorem setV_params (s : State) (x : Reg) (w : Byte) : (setV s x w).params = s.params := rfl
@[simp] theorem setV_rand (s : State) (x : Reg) (w : Byte) : (setV s x w).rand = s.rand := rfl
@[simp] theorem setV_inbox (s : State) (x : Reg) (w : Byte) : (setV s x w).inbox = s.inbox := rfl
@[simp] theorem setV_opNo (s : State) (x : Reg) (w : Byte) : (setV s x w).opNo = s.opNo := rfl
@[simp] theorem setV_reply (s : State) (x : Reg) (w : Byte) : (setV s x w).reply = s.reply := rfl

/-! ### `setI` -/

@[simp] theorem setI_mem (s : State) (w : Word) : (setI s w).mem = s.mem := rfl
@[simp] theorem setI_v (s : State) (w : Word) : (setI s w).v = s.v := rfl
@[simp] theorem setI_i (s : State) (w : Word) : (setI s w).i = w := rfl
@[simp] theorem setI_pc (s : State) (w : Word) : (setI s w).pc = s.pc := rfl
@[simp] theorem setI_stack (s : State) (w : Word) : (setI s w).stack = s.stack := rfl
@[simp] theorem setI_dt (s : State) (w : Word) : (setI s w).dt = s.dt := rfl
@[simp] theorem setI_st (s : State) (w : Word) : (setI s w).st = s.st := rfl
@[simp] theorem setI_lastTick (s : State) (w : Word) : (setI s w).lastTick = s.lastTick := rfl
@[simp] theorem setI_fb (s : State) (w : Word) : (setI s w).fb = s.fb := rfl
@[simp] theorem setI_keys (s : State) (w : Word) : (setI s w).keys = s.keys := rfl
@[simp] theorem setI_wait (s : State) (w : Word) : (setI s w).wait = s.wait := rfl
@[simp] theorem setI_halted (s : State) (w : Word) : (setI s w).halted = s.halted := rfl
@[simp] theorem setI_params (s : State) (w : Word) : (setI s w).params = s.params := rfl
@[simp] theorem setI_rand (s : State) (w : Word) : (setI s w).rand = s.rand := rfl
@[simp] theorem setI_inbox (s : State) (w : Word) : (setI s w).inbox = s.inbox := rfl
@[simp] theorem setI_opNo (s : State) (w : Word) : (setI s w).opNo = s.opNo := rfl
@[simp] theorem setI_reply (s : State) (w : Word) : (setI s w).reply = s.reply := rfl

/-! ### `setPc` -/

@[simp] theorem setPc_mem (s : State) (w : Word) : (setPc s w).mem = s.mem := rfl
@[simp] theorem setPc_v (s : State) (w : Word) : (setPc s w).v = s.v := rfl
@[simp] theorem setPc_i (s : State) (w : Word) : (setPc s w).i = s.i := rfl
@[simp] theorem setPc_pc (s : State) (w : Word) : (setPc s w).pc = w := rfl
@[simp] theorem setPc_stack (s : State) (w : Word) : (setPc s w).stack = s.stack := rfl
@[simp] theorem setPc_dt (s : State) (w : Word) : (setPc s w).dt = s.dt := rfl
@[simp] theorem setPc_st (s : State) (w : Word) : (setPc s w).st = s.st := rfl
@[simp] theorem setPc_lastTick (s : State) (w : Word) : (setPc s w).lastTick = s.lastTick := rfl
@[simp] theorem setPc_fb (s : State) (w : Word) : (setPc s w).fb = s.fb := rfl
@[simp] theorem setPc_keys (s : State) (w : Word) : (setPc s w).keys = s.keys := rfl
@[simp] theorem setPc_wait (s : State) (w : Word) : (setPc s w).wait = s.wait := rfl
@[simp] theorem setPc_halted (s : State) (w : Word) : (setPc s w).halted = s.halted := rfl
@[simp] theorem setPc_params (s : State) (w : Word) : (setPc s w).params = s.params := rfl
@[simp] theorem setPc_rand (s : State) (w : Word) : (setPc s w).rand = s.rand := rfl
@[simp] theorem setPc_inbox (s : State) (w : Word) : (setPc s w).inbox = s.inbox := rfl
@[simp] theorem setPc_opNo (s : State) (w : Word) : (setPc s w).opNo = s.opNo := rfl
@[simp] theorem setPc_reply (s : State) (w : Word) : (setPc s w).reply = s.reply := rfl

/-! ### `advancePc` -/

@[simp] theorem advancePc_mem (s : State) : (advancePc s).mem = s.mem := rfl
@[simp] theorem advancePc_v (s : State) : (advancePc s).v = s.v := rfl
@[simp] theorem advancePc_i (s : State) : (advancePc s).i = s.i := rfl
@[simp] theorem advancePc_pc (s : State) : (advancePc s).pc = s.pc + 2#16 := rfl
@[simp] theorem advancePc_stack (s : State) : (advancePc s).stack = s.stack := rfl
@[simp] theorem advancePc_dt (s : State) : (advancePc s).dt = s.dt := rfl
@[simp] theorem advancePc_st (s : State) : (advancePc s).st = s.st := rfl
@[simp] theorem advancePc_lastTick (s : State) : (advancePc s).lastTick = s.lastTick := rfl
@[simp] theorem advancePc_fb (s : State) : (advancePc s).fb = s.fb := rfl
@[simp] theorem advancePc_keys (s : State) : (advancePc s).keys = s.keys := rfl
@[simp] theorem advancePc_wait (s : State) : (advancePc s).wait = s.wait := rfl
@[simp] theorem advancePc_halted (s : State) : (advancePc s).halted = s.halted := rfl
@[simp] theorem advancePc_params (s : State) : (advancePc s).params = s.params := rfl
@[simp] theorem advancePc_rand (s : State) : (advancePc s).rand = s.rand := rfl
@[simp] theorem advancePc_inbox (s : State) : (advancePc s).inbox = s.inbox := rfl
@[simp] theorem advancePc_opNo (s : State) : (advancePc s).opNo = s.opNo := rfl
@[simp] theorem advancePc_reply (s : State) : (advancePc s).reply = s.reply := rfl

/-! ### `skipIf` -/

@[simp] theorem skipIf_mem (s : State) (c : Bool) : (skipIf s c).mem = s.mem := rfl
@[simp] theorem skipIf_v (s : State) (c : Bool) : (skipIf s c).v = s.v := rfl
@[simp] theorem skipIf_i (s : State) (c : Bool) : (skipIf s c).i = s.i := rfl
@[simp] theorem skipIf_pc (s : State) (c : Bool) : (skipIf s c).pc = if c then s.pc + 2#16 else s.pc := rfl
@[simp] theorem skipIf_stack (s : State) (c : Bool) : (skipIf s c).stack = s.stack := rfl
@[simp] theorem skipIf_dt (s : State) (c : Bool) : (skipIf s c).dt = s.dt := rfl
@[simp] theorem skipIf_st (s : State) (c : Bool) : (skipIf s c).st = s.st := rfl
@[simp] theorem skipIf_lastTick (s : State) (c : Bool) : (skipIf s c).lastTick = s.lastTick := rfl
@[simp] theorem skipIf_fb (s : State) (c : Bool) : (skipIf s c).fb = s.fb := rfl
@[simp] theorem skipIf_keys (s : State) (c : Bool) : (skipIf s c).keys = s.keys := rfl
@[simp] theorem skipIf_wait (s : State) (c : Bool) : (skipIf s c).wait = s.wait := rfl
@[simp] theorem skipIf_halted (s : State) (c : Bool) : (skipIf s c).halted = s.halted := rfl
@[simp] theorem skipIf_params (s : State) (c : Bool) : (skipIf s c).params = s.params := rfl
@[simp] theorem skipIf_rand (s : State) (c : Bool) : (skipIf s c).rand = s.rand := rfl
@[simp] theorem skipIf_inbox (s : State) (c : Bool) : (skipIf s c).inbox = s.inbox := rfl
@[simp] theorem skipIf_opNo (s : State) (c : Bool) : (skipIf s c).opNo = s.opNo := rfl
@[simp] theorem skipIf_reply (s : State) (c : Bool) : (skipIf s c).reply = s.reply := rfl

/-! ### `setDT` -/

@[simp] theorem setDT_mem (s : State) (w : Byte) : (setDT s w).mem = s.mem := rfl
@[simp] theorem setDT_v (s : State) (w : Byte) : (setDT s w).v = s.v := rfl
@[simp] theorem setDT_i (s : State) (w : Byte) : (setDT s w).i = s.i := rfl
@[simp] theorem setDT_pc (s : State) (w : Byte) : (setDT s w).pc = s.pc := rfl
@[simp] theorem setDT_stack (s : State) (w : Byte) : (setDT s w).stack = s.stack := rfl
@[simp] theorem setDT_dt (s : State) (w : Byte) : (setDT s w).dt = w := rfl
@[simp] theorem setDT_st (s : State) (w : Byte) : (setDT s w).st = s.st := rfl
@[simp] theorem setDT_lastTick (s : State) (w : Byte) : (setDT s w).lastTick = s.lastTick := rfl
@[simp] theorem setDT_fb (s : State) (w : Byte) : (setDT s w).fb = s.fb := rfl
@[simp] theorem setDT_keys (s : State) (w : Byte) : (setDT s w).keys = s.keys := rfl
@[simp] theorem setDT_wait (s : State) (w : Byte) : (setDT s w).wait = s.wait := rfl
@[simp] theorem setDT_halted (s : State) (w : Byte) : (setDT s w).halted = s.halted := rfl
@[simp] theorem setDT_params (s : State) (w : Byte) : (setDT s w).params = s.params := rfl
@[simp] theorem setDT_rand (s : State) (w : Byte) : (setDT s w).rand = s.rand := rfl
@[simp] theorem setDT_inbox (s : State) (w : Byte) : (setDT s w).inbox = s.inbox := rfl
@[simp] theorem setDT_opNo (s : State) (w : Byte) : (setDT s w).opNo = s.opNo := rfl
@[simp] theorem setDT_reply (s : State) (w : Byte) : (setDT s w).reply = s.reply := rfl

/-! ### `setST` -/

@[simp] theorem setST_mem (s : State) (w : Byte) : (setST s w).mem = s.mem := rfl
@[simp] theorem setST_v (s : State) (w : Byte) : (setST s w).v = s.v := rfl
@[simp] theorem setST_i (s : State) (w : Byte) : (setST s w).i = s.i := rfl
@[simp] theorem setST_pc (s : State) (w : Byte) : (setST s w).pc = s.pc := rfl
@[simp] theorem setST_stack (s : State) (w : Byte) : (setST s w).stack = s.stack := rfl
@[simp] theorem setST_dt (s : State) (w : Byte) : (setST s w).dt = s.dt := rfl
@[simp] theorem setST_st (s : State) (w : Byte) : (setST s w).st = w := rfl
@[simp] theorem setST_lastTick (s : State) (w : Byte) : (setST s w).lastTick = s.lastTick := rfl
@[simp] theorem setST_fb (s : State) (w : Byte) : (setST s w).fb = s.fb := rfl
@[simp] theorem setST_keys (s : State) (w : Byte) : (setST s w).keys = s.keys := rfl
@[simp] theorem setST_wait (s : State) (w : Byte) : (setST s w).wait = s.wait := rfl
@[simp] theorem setST_halted (s : State) (w : Byte) : (setST s w).halted = s.halted := rfl
@[simp] theorem setST_params (s : State) (w : Byte) : (setST s w).params = s.params := rfl
@[simp] theorem setST_rand (s : State) (w : Byte) : (setST s w).rand = s.rand := rfl
@[simp] theorem setST_inbox (s : State) (w : Byte) : (setST s w).inbox = s.inbox := rfl
@[simp] theorem setST_opNo (s : State) (w : Byte) : (setST s w).opNo = s.opNo := rfl
@[simp] theorem setST_reply (s : State) (w : Byte) : (setST s w).reply = s.reply := rfl

/-! ### `setWait` -/

@[simp] theorem setWait_mem (s : State) (w : Option Reg) : (setWait s w).mem = s.mem := rfl
@[simp] theorem setWait_v (s : State) (w : Option Reg) : (setWait s w).v = s.v := rfl
@[simp] theorem setWait_i (s : State) (w : Option Reg) : (setWait s w).i = s.i := rfl
@[simp] theorem setWait_pc (s : State) (w : Option Reg) : (setWait s w).pc = s.pc := rfl
@[simp] theorem setWait_stack (s : State) (w : Option Reg) : (setWait s w).stack = s.stack := rfl
@[simp] theorem setWait_dt (s : State) (w : Option Reg) : (setWait s w).dt = s.dt := rfl
@[simp] theorem setWait_st (s : State) (w : Option Reg) : (setWait s w).st = s.st := rfl
@[simp] theorem setWait_lastTick (s : State) (w : Option Reg) : (setWait s w).lastTick = s.lastTick := rfl
@[simp] theorem setWait_fb (s : State) (w : Option Reg) : (setWait s w).fb = s.fb := rfl
@[simp] theorem setWait_keys (s : State) (w : Option Reg) : (setWait s w).keys = s.keys := rfl
@[simp] theorem setWait_wait (s : State) (w : Option Reg) : (setWait s w).wait = w := rfl
@[simp] theorem setWait_halted (s : State) (w : Option Reg) : (setWait s w).halted = s.halted := rfl
@[simp] theorem setWait_params (s : State) (w : Option Reg) : (setWait s w).params = s.params := rfl
@[simp] theorem setWait_rand (s : State) (w : Option Reg) : (setWait s w).rand = s.rand := rfl
@[simp] theorem setWait_inbox (s : State) (w : Option Reg) : (setWait s w).inbox = s.inbox := rfl
@[simp] theorem setWait_opNo (s : State) (w : Option Reg) : (setWait s w).opNo = s.opNo := rfl
@[simp] theorem setWait_reply (s : State) (w : Option Reg) : (setWait s w).reply = s.reply := rfl

/-! ### `setFb` -/

@[simp] theorem setFb_mem (s : State) (fb : Framebuffer) : (setFb s fb).mem = s.mem := rfl
@[simp] theorem setFb_v (s : State) (fb : Framebuffer) : (setFb s fb).v = s.v := rfl
@[simp] theorem setFb_i (s : State) (fb : Framebuffer) : (setFb s fb).i = s.i := rfl
@[simp] theorem setFb_pc (s : State) (fb : Framebuffer) : (setFb s fb).pc = s.pc := rfl
@[simp] theorem setFb_stack (s : State) (fb : Framebuffer) : (setFb s fb).stack = s.stack := rfl
@[simp] theorem setFb_dt (s : State) (fb : Framebuffer) : (setFb s fb).dt = s.dt := rfl
@[simp] theorem setFb_st (s : State) (fb : Framebuffer) : (setFb s fb).st = s.st := rfl
@[simp] theorem setFb_lastTick (s : State) (fb : Framebuffer) : (setFb s fb).lastTick = s.lastTick := rfl
@[simp] theorem setFb_fb (s : State) (fb : Framebuffer) : (setFb s fb).fb = fb := rfl
@[simp] theorem setFb_keys (s : State) (fb : Framebuffer) : (setFb s fb).keys = s.keys := rfl
@[simp] theorem setFb_wait (s : State) (fb : Framebuffer) : (setFb s fb).wait = s.wait := rfl
@[simp] theorem setFb_halted (s : State) (fb : Framebuffer) : (setFb s fb).halted = s.halted := rfl
@[simp] theorem setFb_params (s : State) (fb : Framebuffer) : (setFb s fb).params = s.params := rfl
@[simp] theorem setFb_rand (s : State) (fb : Framebuffer) : (setFb s fb).rand = s.rand := rfl
@[simp] theorem setFb_inbox (s : State) (fb : Framebuffer) : (setFb s fb).inbox = s.inbox := rfl
@[simp] theorem setFb_opNo (s : State) (fb : Framebuffer) : (setFb s fb).opNo = s.opNo := rfl
@[simp] theorem setFb_reply (s : State) (fb : Framebuffer) : (setFb s fb).reply = s.reply := rfl

/-! ### `setKey` -/

@[simp] theorem setKey_mem (s : State) (k : Key) (p : Bool) : (setKey s k p).mem = s.mem := rfl
@[simp] theorem setKey_v (s : State) (k : Key) (p : Bool) : (setKey s k p).v = s.v := rfl
@[simp] theorem setKey_i (s : State) (k : Key) (p : Bool) : (setKey s k p).i = s.i := rfl
@[simp] theorem setKey_pc (s : State) (k : Key) (p : Bool) : (setKey s k p).pc = s.pc := rfl
@[simp] theorem setKey_stack (s : State) (k : Key) (p : Bool) : (setKey s k p).stack = s.stack := rfl
@[simp] theorem setKey_dt (s : State) (k : Key) (p : Bool) : (setKey s k p).dt = s.dt := rfl
@[simp] theorem setKey_st (s : State) (k : Key) (p : Bool) : (setKey s k p).st = s.st := rfl
@[simp] theorem setKey_lastTick (s : State) (k : Key) (p : Bool) : (setKey s k p).lastTick = s.lastTick := rfl
@[simp] theorem setKey_fb (s : State) (k : Key) (p : Bool) : (setKey s k p).fb = s.fb := rfl
@[simp] theorem setKey_keys (s : State) (k : Key) (p : Bool) : (setKey s k p).keys = s.keys.set k.toNat p k.isLt := rfl
@[simp] theorem setKey_wait (s : State) (k : Key) (p : Bool) : (setKey s k p).wait = s.wait := rfl
@[simp] theorem setKey_halted (s : State) (k : Key) (p : Bool) : (setKey s k p).halted = s.halted := rfl
@[simp] theorem setKey_params (s : State) (k : Key) (p : Bool) : (setKey s k p).params = s.params := rfl
@[simp] theorem setKey_rand (s : State) (k : Key) (p : Bool) : (setKey s k p).rand = s.rand := rfl
@[simp] theorem setKey_inbox (s : State) (k : Key) (p : Bool) : (setKey s k p).inbox = s.inbox := rfl
@[simp] theorem setKey_opNo (s : State) (k : Key) (p : Bool) : (setKey s k p).opNo = s.opNo := rfl
@[simp] theorem setKey_reply (s : State) (k : Key) (p : Bool) : (setKey s k p).reply = s.reply := rfl

/-! ### `memWrite` -/

@[simp] theorem memWrite_mem (s : State) (a : Nat) (w : Byte) : (memWrite s a w).mem = Memory.write s.mem (maskAddr a) w := rfl
@[simp] theorem memWrite_v (s : State) (a : Nat) (w : Byte) : (memWrite s a w).v = s.v := rfl
@[simp] theorem memWrite_i (s : State) (a : Nat) (w : Byte) : (memWrite s a w).i = s.i := rfl
@[simp] theorem memWrite_pc (s : State) (a : Nat) (w : Byte) : (memWrite s a w).pc = s.pc := rfl
@[simp] theorem memWrite_stack (s : State) (a : Nat) (w : Byte) : (memWrite s a w).stack = s.stack := rfl
@[simp] theorem memWrite_dt (s : State) (a : Nat) (w : Byte) : (memWrite s a w).dt = s.dt := rfl
@[simp] theorem memWrite_st (s : State) (a : Nat) (w : Byte) : (memWrite s a w).st = s.st := rfl
@[simp] theorem memWrite_lastTick (s : State) (a : Nat) (w : Byte) : (memWrite s a w).lastTick = s.lastTick := rfl
@[simp] theorem memWrite_fb (s : State) (a : Nat) (w : Byte) : (memWrite s a w).fb = s.fb := rfl
@[simp] theorem memWrite_keys (s : State) (a : Nat) (w : Byte) : (memWrite s a w).keys = s.keys := rfl
@[simp] theorem memWrite_wait (s : State) (a : Nat) (w : Byte) : (memWrite s a w).wait = s.wait := rfl
@[simp] theorem memWrite_halted (s : State) (a : Nat) (w : Byte) : (memWrite s a w).halted = s.halted := rfl
@[simp] theorem memWrite_params (s : State) (a : Nat) (w : Byte) : (memWrite s a w).params = s.params := rfl
@[simp] theorem memWrite_rand (s : State) (a : Nat) (w : Byte) : (memWrite s a w).rand = s.rand := rfl
@[simp] theorem memWrite_inbox (s : State) (a : Nat) (w : Byte) : (memWrite s a w).inbox = s.inbox := rfl
@[simp] theorem memWrite_opNo (s : State) (a : Nat) (w : Byte) : (memWrite s a w).opNo = s.opNo := rfl
@[simp] theorem memWrite_reply (s : State) (a : Nat) (w : Byte) : (memWrite s a w).reply = s.reply := rfl

/-! ### `setFlag` -/

@[simp] theorem setFlag_mem (s : State) (c : Bool) : (setFlag s c).mem = s.mem := rfl
@[simp] theorem setFlag_v (s : State) (c : Bool) : (setFlag s c).v = s.v.set regF.toNat (if c then 0x01#8 else 0x00#8) regF.isLt := rfl
@[simp] theorem setFlag_i (s : State) (c : Bool) : (setFlag s c).i = s.i := rfl
@[simp] theorem setFlag_pc (s : State) (c : Bool) : (setFlag s c).pc = s.pc := rfl
@[simp] theorem setFlag_stack (s : State) (c : Bool) : (setFlag s c).stack = s.stack := rfl
@[simp] theorem setFlag_dt (s : State) (c : Bool) : (setFlag s c).dt = s.dt := rfl
@[simp] theorem setFlag_st (s : State) (c : Bool) : (setFlag s c).st = s.st := rfl
@[simp] theorem setFlag_lastTick (s : State) (c : Bool) : (setFlag s c).lastTick = s.lastTick := rfl
@[simp] theorem setFlag_fb (s : State) (c : Bool) : (setFlag s c).fb = s.fb := rfl
@[simp] theorem setFlag_keys (s : State) (c : Bool) : (setFlag s c).keys = s.keys := rfl
@[simp] theorem setFlag_wait (s : State) (c : Bool) : (setFlag s c).wait = s.wait := rfl
@[simp] theorem setFlag_halted (s : State) (c : Bool) : (setFlag s c).halted = s.halted := rfl
@[simp] theorem setFlag_params (s : State) (c : Bool) : (setFlag s c).params = s.params := rfl
@[simp] theorem setFlag_rand (s : State) (c : Bool) : (setFlag s c).rand = s.rand := rfl
@[simp] theorem setFlag_inbox (s : State) (c : Bool) : (setFlag s c).inbox = s.inbox := rfl
@[simp] theorem setFlag_opNo (s : State) (c : Bool) : (setFlag s c).opNo = s.opNo := rfl
@[simp] theorem setFlag_reply (s : State) (c : Bool) : (setFlag s c).reply = s.reply := rfl

/-! ### `setVFlag` -/

@[simp] theorem setVFlag_mem (s : State) (x : Reg) (w : Byte) (c : Bool) : (setVFlag s x w c).mem = s.mem := rfl
@[simp] theorem setVFlag_i (s : State) (x : Reg) (w : Byte) (c : Bool) : (setVFlag s x w c).i = s.i := rfl
@[simp] theorem setVFlag_pc (s : State) (x : Reg) (w : Byte) (c : Bool) : (setVFlag s x w c).pc = s.pc := rfl
@[simp] theorem setVFlag_stack (s : State) (x : Reg) (w : Byte) (c : Bool) : (setVFlag s x w c).stack = s.stack := rfl
@[simp] theorem setVFlag_dt (s : State) (x : Reg) (w : Byte) (c : Bool) : (setVFlag s x w c).dt = s.dt := rfl
@[simp] theorem setVFlag_st (s : State) (x : Reg) (w : Byte) (c : Bool) : (setVFlag s x w c).st = s.st := rfl
@[simp] theorem setVFlag_lastTick (s : State) (x : Reg) (w : Byte) (c : Bool) : (setVFlag s x w c).lastTick = s.lastTick := rfl
@[simp] theorem setVFlag_fb (s : State) (x : Reg) (w : Byte) (c : Bool) : (setVFlag s x w c).fb = s.fb := rfl
@[simp] theorem setVFlag_keys (s : State) (x : Reg) (w : Byte) (c : Bool) : (setVFlag s x w c).keys = s.keys := rfl
@[simp] theorem setVFlag_wait (s : State) (x : Reg) (w : Byte) (c : Bool) : (setVFlag s x w c).wait = s.wait := rfl
@[simp] theorem setVFlag_halted (s : State) (x : Reg) (w : Byte) (c : Bool) : (setVFlag s x w c).halted = s.halted := rfl
@[simp] theorem setVFlag_params (s : State) (x : Reg) (w : Byte) (c : Bool) : (setVFlag s x w c).params = s.params := rfl
@[simp] theorem setVFlag_rand (s : State) (x : Reg) (w : Byte) (c : Bool) : (setVFlag s x w c).rand = s.rand := rfl
@[simp] theorem setVFlag_inbox (s : State) (x : Reg) (w : Byte) (c : Bool) : (setVFlag s x w c).inbox = s.inbox := rfl
@[simp] theorem setVFlag_opNo (s : State) (x : Reg) (w : Byte) (c : Bool) : (setVFlag s x w c).opNo = s.opNo := rfl
@[simp] theorem setVFlag_reply (s : State) (x : Reg) (w : Byte) (c : Bool) : (setVFlag s x w c).reply = s.reply := rfl

/-! ### `raiseError` -/

@[simp] theorem raiseError_mem (s : State) (k : ErrorKind) (w : Word) : (raiseError s k w).mem = s.mem := rfl
@[simp] theorem raiseError_v (s : State) (k : ErrorKind) (w : Word) : (raiseError s k w).v = s.v := rfl
@[simp] theorem raiseError_i (s : State) (k : ErrorKind) (w : Word) : (raiseError s k w).i = s.i := rfl
@[simp] theorem raiseError_pc (s : State) (k : ErrorKind) (w : Word) : (raiseError s k w).pc = s.pc := rfl
@[simp] theorem raiseError_stack (s : State) (k : ErrorKind) (w : Word) : (raiseError s k w).stack = s.stack := rfl
@[simp] theorem raiseError_dt (s : State) (k : ErrorKind) (w : Word) : (raiseError s k w).dt = s.dt := rfl
@[simp] theorem raiseError_st (s : State) (k : ErrorKind) (w : Word) : (raiseError s k w).st = s.st := rfl
@[simp] theorem raiseError_lastTick (s : State) (k : ErrorKind) (w : Word) : (raiseError s k w).lastTick = s.lastTick := rfl
@[simp] theorem raiseError_fb (s : State) (k : ErrorKind) (w : Word) : (raiseError s k w).fb = s.fb := rfl
@[simp] theorem raiseError_keys (s : State) (k : ErrorKind) (w : Word) : (raiseError s k w).keys = s.keys := rfl
@[simp] theorem raiseError_wait (s : State) (k : ErrorKind) (w : Word) : (raiseError s k w).wait = s.wait := rfl
@[simp] theorem raiseError_params (s : State) (k : ErrorKind) (w : Word) : (raiseError s k w).params = s.params := rfl
@[simp] theorem raiseError_rand (s : State) (k : ErrorKind) (w : Word) : (raiseError s k w).rand = s.rand := rfl
@[simp] theorem raiseError_inbox (s : State) (k : ErrorKind) (w : Word) : (raiseError s k w).inbox = s.inbox := rfl
@[simp] theorem raiseError_opNo (s : State) (k : ErrorKind) (w : Word) : (raiseError s k w).opNo = s.opNo := rfl
@[simp] theorem raiseError_reply (s : State) (k : ErrorKind) (w : Word) : (raiseError s k w).reply = .step (.error (stepReport s k w)) := rfl

/-! ### `timerCheck` -/

@[simp] theorem timerCheck_mem (s : State) (now : Nat) : (timerCheck s now).mem = s.mem := rfl
@[simp] theorem timerCheck_v (s : State) (now : Nat) : (timerCheck s now).v = s.v := rfl
@[simp] theorem timerCheck_i (s : State) (now : Nat) : (timerCheck s now).i = s.i := rfl
@[simp] theorem timerCheck_pc (s : State) (now : Nat) : (timerCheck s now).pc = s.pc := rfl
@[simp] theorem timerCheck_stack (s : State) (now : Nat) : (timerCheck s now).stack = s.stack := rfl
@[simp] theorem timerCheck_dt (s : State) (now : Nat) : (timerCheck s now).dt = if tickDue s now then countDown s.dt else s.dt := rfl
@[simp] theorem timerCheck_st (s : State) (now : Nat) : (timerCheck s now).st = if tickDue s now then countDown s.st else s.st := rfl
@[simp] theorem timerCheck_lastTick (s : State) (now : Nat) : (timerCheck s now).lastTick = if tickDue s now then now else s.lastTick := rfl
@[simp] theorem timerCheck_fb (s : State) (now : Nat) : (timerCheck s now).fb = s.fb := rfl
@[simp] theorem timerCheck_keys (s : State) (now : Nat) : (timerCheck s now).keys = s.keys := rfl
@[simp] theorem timerCheck_wait (s : State) (now : Nat) : (timerCheck s now).wait = s.wait := rfl
@[simp] theorem timerCheck_halted (s : State) (now : Nat) : (timerCheck s now).halted = s.halted := rfl
@[simp] theorem timerCheck_params (s : State) (now : Nat) : (timerCheck s now).params = s.params := rfl
@[simp] theorem timerCheck_rand (s : State) (now : Nat) : (timerCheck s now).rand = s.rand := rfl
@[simp] theorem timerCheck_inbox (s : State) (now : Nat) : (timerCheck s now).inbox = s.inbox := rfl
@[simp] theorem timerCheck_opNo (s : State) (now : Nat) : (timerCheck s now).opNo = s.opNo := rfl
@[simp] theorem timerCheck_reply (s : State) (now : Nat) : (timerCheck s now).reply = s.reply := rfl

end Sys2Proof.Machine
end

