-- ==== Sys2Proof/Laws/Cycle.lean ====
section
/-! SUPPORT. One lemma per field per update of the step cycle, and what each run state's step is. -/

namespace Sys2Proof.Machine

/-! ### `setReply` -/

@[simp] theorem setReply_mem (s : State) (r : Reply) : (setReply s r).mem = s.mem := rfl
@[simp] theorem setReply_v (s : State) (r : Reply) : (setReply s r).v = s.v := rfl
@[simp] theorem setReply_i (s : State) (r : Reply) : (setReply s r).i = s.i := rfl
@[simp] theorem setReply_pc (s : State) (r : Reply) : (setReply s r).pc = s.pc := rfl
@[simp] theorem setReply_stack (s : State) (r : Reply) : (setReply s r).stack = s.stack := rfl
@[simp] theorem setReply_dt (s : State) (r : Reply) : (setReply s r).dt = s.dt := rfl
@[simp] theorem setReply_st (s : State) (r : Reply) : (setReply s r).st = s.st := rfl
@[simp] theorem setReply_lastTick (s : State) (r : Reply) : (setReply s r).lastTick = s.lastTick := rfl
@[simp] theorem setReply_fb (s : State) (r : Reply) : (setReply s r).fb = s.fb := rfl
@[simp] theorem setReply_keys (s : State) (r : Reply) : (setReply s r).keys = s.keys := rfl
@[simp] theorem setReply_wait (s : State) (r : Reply) : (setReply s r).wait = s.wait := rfl
@[simp] theorem setReply_halted (s : State) (r : Reply) : (setReply s r).halted = s.halted := rfl
@[simp] theorem setReply_params (s : State) (r : Reply) : (setReply s r).params = s.params := rfl
@[simp] theorem setReply_rand (s : State) (r : Reply) : (setReply s r).rand = s.rand := rfl
@[simp] theorem setReply_inbox (s : State) (r : Reply) : (setReply s r).inbox = s.inbox := rfl
@[simp] theorem setReply_opNo (s : State) (r : Reply) : (setReply s r).opNo = s.opNo := rfl
@[simp] theorem setReply_reply (s : State) (r : Reply) : (setReply s r).reply = r := rfl

/-! ### `setRand` -/

@[simp] theorem setRand_mem (s : State) (b : Byte) : (setRand s b).mem = s.mem := rfl
@[simp] theorem setRand_v (s : State) (b : Byte) : (setRand s b).v = s.v := rfl
@[simp] theorem setRand_i (s : State) (b : Byte) : (setRand s b).i = s.i := rfl
@[simp] theorem setRand_pc (s : State) (b : Byte) : (setRand s b).pc = s.pc := rfl
@[simp] theorem setRand_stack (s : State) (b : Byte) : (setRand s b).stack = s.stack := rfl
@[simp] theorem setRand_dt (s : State) (b : Byte) : (setRand s b).dt = s.dt := rfl
@[simp] theorem setRand_st (s : State) (b : Byte) : (setRand s b).st = s.st := rfl
@[simp] theorem setRand_lastTick (s : State) (b : Byte) : (setRand s b).lastTick = s.lastTick := rfl
@[simp] theorem setRand_fb (s : State) (b : Byte) : (setRand s b).fb = s.fb := rfl
@[simp] theorem setRand_keys (s : State) (b : Byte) : (setRand s b).keys = s.keys := rfl
@[simp] theorem setRand_wait (s : State) (b : Byte) : (setRand s b).wait = s.wait := rfl
@[simp] theorem setRand_halted (s : State) (b : Byte) : (setRand s b).halted = s.halted := rfl
@[simp] theorem setRand_params (s : State) (b : Byte) : (setRand s b).params = s.params := rfl
@[simp] theorem setRand_rand (s : State) (b : Byte) : (setRand s b).rand = b := rfl
@[simp] theorem setRand_inbox (s : State) (b : Byte) : (setRand s b).inbox = s.inbox := rfl
@[simp] theorem setRand_opNo (s : State) (b : Byte) : (setRand s b).opNo = s.opNo := rfl
@[simp] theorem setRand_reply (s : State) (b : Byte) : (setRand s b).reply = s.reply := rfl

/-! ### `takeOp` -/

@[simp] theorem takeOp_mem (s : State) : (takeOp s).mem = s.mem := rfl
@[simp] theorem takeOp_v (s : State) : (takeOp s).v = s.v := rfl
@[simp] theorem takeOp_i (s : State) : (takeOp s).i = s.i := rfl
@[simp] theorem takeOp_pc (s : State) : (takeOp s).pc = s.pc := rfl
@[simp] theorem takeOp_stack (s : State) : (takeOp s).stack = s.stack := rfl
@[simp] theorem takeOp_dt (s : State) : (takeOp s).dt = s.dt := rfl
@[simp] theorem takeOp_st (s : State) : (takeOp s).st = s.st := rfl
@[simp] theorem takeOp_lastTick (s : State) : (takeOp s).lastTick = s.lastTick := rfl
@[simp] theorem takeOp_fb (s : State) : (takeOp s).fb = s.fb := rfl
@[simp] theorem takeOp_keys (s : State) : (takeOp s).keys = s.keys := rfl
@[simp] theorem takeOp_wait (s : State) : (takeOp s).wait = s.wait := rfl
@[simp] theorem takeOp_halted (s : State) : (takeOp s).halted = s.halted := rfl
@[simp] theorem takeOp_params (s : State) : (takeOp s).params = s.params := rfl
@[simp] theorem takeOp_rand (s : State) : (takeOp s).rand = s.rand := rfl
@[simp] theorem takeOp_inbox (s : State) : (takeOp s).inbox = s.inbox.tail := rfl
@[simp] theorem takeOp_opNo (s : State) : (takeOp s).opNo = s.opNo + 1 := rfl
@[simp] theorem takeOp_reply (s : State) : (takeOp s).reply = s.reply := rfl

/-! ### `executeEntry` -/

@[simp] theorem executeEntry_mem (s : State) (b : Byte) : (executeEntry s b).mem = s.mem := rfl
@[simp] theorem executeEntry_v (s : State) (b : Byte) : (executeEntry s b).v = s.v := rfl
@[simp] theorem executeEntry_i (s : State) (b : Byte) : (executeEntry s b).i = s.i := rfl
@[simp] theorem executeEntry_pc (s : State) (b : Byte) : (executeEntry s b).pc = s.pc + 2#16 := rfl
@[simp] theorem executeEntry_stack (s : State) (b : Byte) : (executeEntry s b).stack = s.stack := rfl
@[simp] theorem executeEntry_dt (s : State) (b : Byte) : (executeEntry s b).dt = s.dt := rfl
@[simp] theorem executeEntry_st (s : State) (b : Byte) : (executeEntry s b).st = s.st := rfl
@[simp] theorem executeEntry_lastTick (s : State) (b : Byte) : (executeEntry s b).lastTick = s.lastTick := rfl
@[simp] theorem executeEntry_fb (s : State) (b : Byte) : (executeEntry s b).fb = s.fb := rfl
@[simp] theorem executeEntry_keys (s : State) (b : Byte) : (executeEntry s b).keys = s.keys := rfl
@[simp] theorem executeEntry_wait (s : State) (b : Byte) : (executeEntry s b).wait = s.wait := rfl
@[simp] theorem executeEntry_halted (s : State) (b : Byte) : (executeEntry s b).halted = s.halted := rfl
@[simp] theorem executeEntry_params (s : State) (b : Byte) : (executeEntry s b).params = s.params := rfl
@[simp] theorem executeEntry_rand (s : State) (b : Byte) : (executeEntry s b).rand = b := rfl
@[simp] theorem executeEntry_inbox (s : State) (b : Byte) : (executeEntry s b).inbox = s.inbox := rfl
@[simp] theorem executeEntry_opNo (s : State) (b : Byte) : (executeEntry s b).opNo = s.opNo := rfl
@[simp] theorem executeEntry_reply (s : State) (b : Byte) : (executeEntry s b).reply = .step .ok := rfl

/-! ### The step in each run state -/

/-- A step in the Halted state answers the same state with its report (R112). -/
theorem stepOp_halted (s : State) (now : Nat) (rand : Byte) (info : StepReport) (h : s.halted = some info) :
    stepOp now rand s = .next (haltedStep info s) := by
  simp [stepOp, h]

/-- A step in Waiting(x) is a waiting step (R109, R110). -/
theorem stepOp_waiting (s : State) (now : Nat) (rand : Byte) (x : Reg) (h : s.halted = none) (w : s.wait = some x) :
    stepOp now rand s = .next (waitingStep x now s) := by
  simp [stepOp, h, w]

/-- A step in the Running state fetches (R101). -/
theorem stepOp_running (s : State) (now : Nat) (rand : Byte) (h : s.halted = none) (w : s.wait = none) :
    stepOp now rand s = runningStep now rand s := by
  simp [stepOp, h, w]

end Sys2Proof.Machine
end

