-- ==== Sys2Proof/Laws/Decode.lean ====
section
/-! SUPPORT. The numbers of the three word formats (R72) and the fields read back from them (R71). -/

namespace Sys2Proof

/-- The number of an appended bit vector: the high part times a power of two plus the low part. -/
theorem toNat_append_eq {m n : Nat} (a : BitVec m) (b : BitVec n) : (a ++ b).toNat = a.toNat * 2 ^ n + b.toNat := by
  rw [BitVec.toNat_append, ← Nat.shiftLeft_add_eq_or_of_lt b.isLt, Nat.shiftLeft_eq]

/-- The number of a word of format `NNN`. -/
theorem wordNNN_toNat (op : BitVec 4) (nnn : Addr) : (wordNNN op nnn).toNat = op.toNat * 4096 + nnn.toNat :=
  toNat_append_eq op nnn

/-- The number of a word of format `XKK`. -/
theorem wordXKK_toNat (op : BitVec 4) (x : Reg) (kk : Byte) :
    (wordXKK op x kk).toNat = op.toNat * 4096 + x.toNat * 256 + kk.toNat := by
  have h : (wordXKK op x kk).toNat = (op ++ x).toNat * 2 ^ 8 + kk.toNat := toNat_append_eq (op ++ x) kk
  rw [h, toNat_append_eq]
  omega

/-- The number of a word of format `XYN`. -/
theorem wordXYN_toNat (op : BitVec 4) (x y : Reg) (n : BitVec 4) :
    (wordXYN op x y n).toNat = op.toNat * 4096 + x.toNat * 256 + y.toNat * 16 + n.toNat := by
  have h : (wordXYN op x y n).toNat = ((op ++ x) ++ y).toNat * 2 ^ 4 + n.toNat := toNat_append_eq ((op ++ x) ++ y) n
  rw [h, toNat_append_eq, toNat_append_eq]
  omega

/-! ## The fields of a word by its number -/

theorem fieldOp_toNat (w : Word) : (fieldOp w).toNat = w.toNat / 4096 := by
  have := w.isLt
  simp [fieldOp, BitVec.extractLsb'_toNat, Nat.shiftRight_eq_div_pow]
  omega

theorem fieldX_toNat (w : Word) : (fieldX w).toNat = w.toNat / 256 % 16 := by
  simp [fieldX, BitVec.extractLsb'_toNat, Nat.shiftRight_eq_div_pow]

theorem fieldY_toNat (w : Word) : (fieldY w).toNat = w.toNat / 16 % 16 := by
  simp [fieldY, BitVec.extractLsb'_toNat, Nat.shiftRight_eq_div_pow]

theorem fieldN_toNat (w : Word) : (fieldN w).toNat = w.toNat % 16 := by
  simp [fieldN, BitVec.extractLsb'_toNat]

theorem fieldKK_toNat (w : Word) : (fieldKK w).toNat = w.toNat % 256 := by
  simp [fieldKK, BitVec.extractLsb'_toNat]

theorem fieldNNN_toNat (w : Word) : (fieldNNN w).toNat = w.toNat % 4096 := by
  simp [fieldNNN, BitVec.extractLsb'_toNat]

/-! ## The fields of each format -/

@[simp] theorem fieldOp_wordNNN (op : BitVec 4) (nnn : Addr) : fieldOp (wordNNN op nnn) = op := by
  have := nnn.isLt
  exact BitVec.eq_of_toNat_eq (by rw [fieldOp_toNat, wordNNN_toNat]; omega)

@[simp] theorem fieldNNN_wordNNN (op : BitVec 4) (nnn : Addr) : fieldNNN (wordNNN op nnn) = nnn := by
  have := nnn.isLt
  exact BitVec.eq_of_toNat_eq (by rw [fieldNNN_toNat, wordNNN_toNat]; omega)

@[simp] theorem fieldOp_wordXKK (op : BitVec 4) (x : Reg) (kk : Byte) : fieldOp (wordXKK op x kk) = op := by
  have := x.isLt; have := kk.isLt
  exact BitVec.eq_of_toNat_eq (by rw [fieldOp_toNat, wordXKK_toNat]; omega)

@[simp] theorem fieldX_wordXKK (op : BitVec 4) (x : Reg) (kk : Byte) : fieldX (wordXKK op x kk) = x := by
  have := x.isLt; have := kk.isLt
  exact BitVec.eq_of_toNat_eq (by rw [fieldX_toNat, wordXKK_toNat]; omega)

@[simp] theorem fieldKK_wordXKK (op : BitVec 4) (x : Reg) (kk : Byte) : fieldKK (wordXKK op x kk) = kk := by
  have := x.isLt; have := kk.isLt
  exact BitVec.eq_of_toNat_eq (by rw [fieldKK_toNat, wordXKK_toNat]; omega)

@[simp] theorem fieldOp_wordXYN (op : BitVec 4) (x y : Reg) (n : BitVec 4) : fieldOp (wordXYN op x y n) = op := by
  have := x.isLt; have := y.isLt; have := n.isLt
  exact BitVec.eq_of_toNat_eq (by rw [fieldOp_toNat, wordXYN_toNat]; omega)

@[simp] theorem fieldX_wordXYN (op : BitVec 4) (x y : Reg) (n : BitVec 4) : fieldX (wordXYN op x y n) = x := by
  have := x.isLt; have := y.isLt; have := n.isLt
  exact BitVec.eq_of_toNat_eq (by rw [fieldX_toNat, wordXYN_toNat]; omega)

@[simp] theorem fieldY_wordXYN (op : BitVec 4) (x y : Reg) (n : BitVec 4) : fieldY (wordXYN op x y n) = y := by
  have := x.isLt; have := y.isLt; have := n.isLt
  exact BitVec.eq_of_toNat_eq (by rw [fieldY_toNat, wordXYN_toNat]; omega)

@[simp] theorem fieldN_wordXYN (op : BitVec 4) (x y : Reg) (n : BitVec 4) : fieldN (wordXYN op x y n) = n := by
  have := x.isLt; have := y.isLt; have := n.isLt
  exact BitVec.eq_of_toNat_eq (by rw [fieldN_toNat, wordXYN_toNat]; omega)

/-- The two bytes of a word, put together again, are the word (R54, R56). -/
@[simp] theorem wordOfBytes_high_low (w : Word) : wordOfBytes (highByte w) (lowByte w) = w := by
  have h : (wordOfBytes (highByte w) (lowByte w)).toNat = (highByte w).toNat * 2 ^ 8 + (lowByte w).toNat :=
    toNat_append_eq _ _
  have := w.isLt
  refine BitVec.eq_of_toNat_eq ?_
  rw [h]
  simp [highByte, lowByte, BitVec.extractLsb'_toNat, Nat.shiftRight_eq_div_pow]
  omega

end Sys2Proof
end

