-- ==== Sys2Proof/Laws/Memory.lean ====
section
/-! SUPPORT. The laws of memory: a read after a write, and the canonical form, which every memory operation keeps. -/

namespace Sys2Proof.Machine

/-! ## Read after write -/

/-- Erasing an address gives it its reset contents and leaves every other address alone. -/
theorem Memory.read_erase (m : Memory) (a b : Nat) :
    Memory.read (Memory.erase m a) b = if b = a then Memory.unlisted b else Memory.read m b := by
  induction m with
  | nil => simp [Memory.erase, Memory.read]
  | cons c m ih =>
    obtain ⟨k, w⟩ := c
    by_cases hk : k = a
    · subst hk
      by_cases hb : b = k
      · simpa [Memory.erase, hb] using ih
      · have : k ≠ b := fun h => hb h.symm
        simpa [Memory.erase, Memory.read, hb, this] using ih
    · by_cases hb : k = b
      · subst hb
        simp [Memory.erase, Memory.read, hk]
      · simpa [Memory.erase, Memory.read, hk, hb] using ih

/-- Inserting an entry for an address that memory does not list gives it that byte and leaves every other alone. -/
theorem Memory.read_insert (m : Memory) (a b : Nat) (w : Byte) (h : ∀ c ∈ m, c.1 ≠ a) :
    Memory.read (Memory.insert m a w) b = if b = a then w else Memory.read m b := by
  induction m with
  | nil => simp only [Memory.insert, Memory.read, eq_comm]
  | cons c m ih =>
    obtain ⟨k, u⟩ := c
    have hk : k ≠ a := h (k, u) (by simp)
    have ih := ih (fun c hc => h c (by simp [hc]))
    by_cases hlt : a < k
    · by_cases hb : b = a
      · simp [Memory.insert, Memory.read, hlt, hb]
      · have : a ≠ b := fun h => hb h.symm
        simp [Memory.insert, Memory.read, hlt, hb, this]
    · by_cases hkb : k = b
      · subst hkb
        simp [Memory.insert, Memory.read, hlt, hk]
      · simpa [Memory.insert, Memory.read, hlt, hkb] using ih

/-- No entry for an erased address is left. -/
theorem Memory.mem_erase (m : Memory) (a : Nat) : ∀ c ∈ Memory.erase m a, c.1 ≠ a ∧ c ∈ m := by
  induction m with
  | nil => simp [Memory.erase]
  | cons d m ih =>
    obtain ⟨k, u⟩ := d
    intro c hc
    by_cases hk : k = a
    · have := ih c (by simpa [Memory.erase, hk] using hc)
      exact ⟨this.1, by simp [this.2]⟩
    · simp only [Memory.erase, hk, if_false, List.mem_cons] at hc
      rcases hc with rfl | hc
      · exact ⟨hk, by simp⟩
      · exact ⟨(ih c hc).1, by simp [(ih c hc).2]⟩

/-- A write gives its address the byte written and changes no other byte (R53), whatever the list. -/
theorem Memory.read_write (m : Memory) (a b : Nat) (w : Byte) :
    Memory.read (Memory.write m a w) b = if b = a then w else Memory.read m b := by
  unfold Memory.write
  split
  · rename_i h
    rw [Memory.read_erase]
    split <;> simp_all
  · rw [Memory.read_insert _ _ _ _ (fun c hc => (Memory.mem_erase m a c hc).1), Memory.read_erase]
    split <;> rfl

/-- The byte read at any address after `MemWrite` (R52, R53). -/
theorem memRead_memWrite (s : State) (a b : Nat) (w : Byte) :
    memRead (memWrite s a w) b = if maskAddr b = maskAddr a then w else memRead s b :=
  Memory.read_write s.mem (maskAddr a) (maskAddr b) w

/-- A masked address lies inside memory. -/
theorem maskAddr_lt (a : Nat) : maskAddr a < Config.memSize := Nat.mod_lt _ (by decide)

/-! ## The canonical form -/

/-- A list canonical above a bound is canonical above any lower one. -/
theorem Memory.wfAbove_mono {lo lo' : Nat} {m : Memory} (h : lo' ≤ lo) (w : Memory.wfAbove lo m = true) :
    Memory.wfAbove lo' m = true := by
  cases m with
  | nil => rfl
  | cons c m =>
    obtain ⟨k, u⟩ := c
    simp only [Memory.wfAbove, Bool.and_eq_true, decide_eq_true_eq] at w ⊢
    exact ⟨⟨⟨by omega, w.1.1.2⟩, w.1.2⟩, w.2⟩

/-- Erasing keeps the canonical form. -/
theorem Memory.wfAbove_erase {lo : Nat} {m : Memory} (a : Nat) (w : Memory.wfAbove lo m = true) :
    Memory.wfAbove lo (Memory.erase m a) = true := by
  induction m generalizing lo with
  | nil => rfl
  | cons c m ih =>
    obtain ⟨k, u⟩ := c
    simp only [Memory.wfAbove, Bool.and_eq_true, decide_eq_true_eq] at w
    by_cases hk : k = a
    · simpa [Memory.erase, hk] using ih (Memory.wfAbove_mono (by omega) w.2)
    · simp only [Memory.erase, hk, if_false, Memory.wfAbove, Bool.and_eq_true, decide_eq_true_eq]
      exact ⟨w.1, ih w.2⟩

/-- Inserting an entry that is not at its reset contents, for an address the list lacks, keeps the canonical form. -/
theorem Memory.wfAbove_insert {lo : Nat} {m : Memory} {a : Nat} {w : Byte} (hm : Memory.wfAbove lo m = true)
    (hlo : lo ≤ a) (ha : a < Config.memSize) (hw : w ≠ Memory.unlisted a) (hn : ∀ c ∈ m, c.1 ≠ a) :
    Memory.wfAbove lo (Memory.insert m a w) = true := by
  induction m generalizing lo with
  | nil => simp [Memory.insert, Memory.wfAbove, hlo, ha, hw]
  | cons c m ih =>
    obtain ⟨k, u⟩ := c
    have hk : k ≠ a := hn (k, u) (by simp)
    simp only [Memory.wfAbove, Bool.and_eq_true, decide_eq_true_eq, bne_iff_ne] at hm
    by_cases hlt : a < k
    · simp only [Memory.insert, hlt, if_true, Memory.wfAbove, Bool.and_eq_true, decide_eq_true_eq, bne_iff_ne]
      exact ⟨⟨⟨hlo, ha⟩, hw⟩, ⟨⟨by omega, hm.1.1.2⟩, hm.1.2⟩, hm.2⟩
    · simp only [Memory.insert, hlt, if_false, Memory.wfAbove, Bool.and_eq_true, decide_eq_true_eq, bne_iff_ne]
      exact ⟨hm.1, ih hm.2 (by omega) (fun c hc => hn c (by simp [hc]))⟩

/-- A write inside memory keeps the canonical form. -/
theorem Memory.wf_write {m : Memory} {a : Nat} (w : Byte) (ha : a < Config.memSize) (h : Memory.wf m = true) :
    Memory.wf (Memory.write m a w) = true := by
  unfold Memory.write
  split
  · exact Memory.wfAbove_erase a h
  · rename_i hw
    exact Memory.wfAbove_insert (Memory.wfAbove_erase a h) (Nat.zero_le a) ha hw
      (fun c hc => (Memory.mem_erase m a c hc).1)

/-- `MemWrite` keeps the canonical form of memory, at any address. -/
theorem memWrite_wf (s : State) (a : Nat) (w : Byte) (h : Memory.wf s.mem = true) :
    Memory.wf (memWrite s a w).mem = true := Memory.wf_write w (maskAddr_lt a) h

/-- A block of writes keeps the canonical form of memory. -/
theorem storeBytes_wf (ws : List Byte) (base : Nat) (s : State) (h : Memory.wf s.mem = true) :
    Memory.wf (storeBytes base ws s).mem = true := by
  induction ws generalizing base s with
  | nil => exact h
  | cons w ws ih => exact ih (base + 1) (memWrite s base w) (memWrite_wf s base w h)

/-- Memory after reset is canonical: it lists nothing. -/
theorem reset_mem_wf : Memory.wf State.reset.mem = true := rfl

/-! ## Blocks -/

/-- A block of writes touches memory and nothing else. -/
theorem storeBytes_frame (ws : List Byte) (base : Nat) (s : State) :
    storeBytes base ws s = { s with mem := (storeBytes base ws s).mem } := by
  induction ws generalizing base s with
  | nil => rfl
  | cons w ws ih => simpa [storeBytes, memWrite] using ih (base + 1) (memWrite s base w)

/-- An address outside a block keeps its byte. -/
theorem memRead_storeBytes_outside (ws : List Byte) (base : Nat) (s : State) (b : Nat)
    (h : ∀ k < ws.length, maskAddr b ≠ maskAddr (base + k)) :
    memRead (storeBytes base ws s) b = memRead s b := by
  induction ws generalizing base s with
  | nil => rfl
  | cons w ws ih =>
    have h0 : maskAddr b ≠ maskAddr base := by simpa using h 0 (by simp)
    have hs := ih (base + 1) (memWrite s base w) (fun k hk => by
      have := h (k + 1) (by simpa using hk)
      simpa [Nat.add_assoc, Nat.add_comm 1 k] using this)
    simpa [storeBytes, memRead_memWrite, h0] using hs

/-- An address inside a block no longer than memory holds the byte the block puts there. -/
theorem memRead_storeBytes_inside (ws : List Byte) (base : Nat) (s : State) (k : Nat) (hk : k < ws.length)
    (hl : ws.length ≤ Config.memSize) : memRead (storeBytes base ws s) (base + k) = ws[k] := by
  induction ws generalizing base s k with
  | nil => simp at hk
  | cons w ws ih =>
    simp only [List.length_cons] at hk hl
    cases k with
    | zero =>
      have := memRead_storeBytes_outside ws (base + 1) (memWrite s base w) base (fun j hj => by
        unfold maskAddr Config.memSize at *
        omega)
      simpa [storeBytes, memRead_memWrite] using this
    | succ k =>
      have := ih (base + 1) (memWrite s base w) k (by omega) (by omega)
      simpa [storeBytes, Nat.add_assoc, Nat.add_comm 1 k] using this

/-- The bytes read at consecutive addresses. -/
theorem loadBytes_length (s : State) (base n : Nat) : (loadBytes s base n).length = n := by
  induction n generalizing base with
  | zero => rfl
  | succ n ih => simp [loadBytes, ih]

/-- The byte at each offset of a block read. -/
theorem loadBytes_get (s : State) (base n k : Nat) (h : k < (loadBytes s base n).length) :
    (loadBytes s base n)[k] = memRead s (base + k) := by
  induction n generalizing base k with
  | zero => simp [loadBytes] at h
  | succ n ih =>
    cases k with
    | zero => simp [loadBytes]
    | succ k =>
      have := ih (base + 1) k (by simpa [loadBytes] using h)
      simpa [loadBytes, Nat.add_assoc, Nat.add_comm 1 k] using this

end Sys2Proof.Machine
end

