-- ==== Sys2Proof/Laws/Ops.lean ====
section
/-! SUPPORT. What each shared operation over registers, stack, pixels and keys can do, said once. -/

namespace Sys2Proof.Machine

/-! ## Registers -/

/-- A register read after a register write (R20). -/
theorem getV_setV (s : State) (x r : Reg) (w : Byte) : getV (setV s x w) r = if r = x then w else getV s r := by
  by_cases h : r = x
  · subst h
    simp [getV]
  · have : x.toNat ≠ r.toNat := fun e => h (BitVec.eq_of_toNat_eq e.symm)
    simp [getV, h, this]

/-- A register read after a flag write: VF holds the flag (R21). -/
theorem getV_setFlag (s : State) (r : Reg) (flag : Bool) :
    getV (setFlag s flag) r = if r = regF then (if flag then 0x01#8 else 0x00#8) else getV s r :=
  getV_setV s regF r _

/-- A register read after Vx and then VF are written: where x = F the flag stands (R22). -/
theorem getV_setVFlag (s : State) (x r : Reg) (w : Byte) (flag : Bool) :
    getV (setVFlag s x w flag) r =
      if r = regF then (if flag then 0x01#8 else 0x00#8) else if r = x then w else getV s r := by
  rw [setVFlag, getV_setFlag, getV_setV]

/-- Writing a register touches the registers and nothing else. -/
theorem setV_frame (s : State) (x : Reg) (w : Byte) : setV s x w = { s with v := (setV s x w).v } := rfl

/-- Writing Vx and VF touches the registers and nothing else. -/
theorem setVFlag_frame (s : State) (x : Reg) (w : Byte) (flag : Bool) :
    setVFlag s x w flag = { s with v := (setVFlag s x w flag).v } := rfl

/-- Loading registers touches the registers and nothing else. -/
theorem loadRegs_frame (base n : Nat) (s : State) : loadRegs base n s = { s with v := (loadRegs base n s).v } := by
  induction n with
  | zero => rfl
  | succ n ih => rw [loadRegs, setV_frame, ih]

/-- Each of the first `n` registers holds the byte at its offset; the others are unchanged (R195). -/
theorem getV_loadRegs (base n : Nat) (s : State) (r : Reg) (hn : n ≤ 16) :
    getV (loadRegs base n s) r = if r.toNat < n then memRead s (base + r.toNat) else getV s r := by
  induction n with
  | zero => simp [loadRegs]
  | succ n ih =>
    have hr : r.toNat < 16 := r.isLt
    have hnat : (BitVec.ofNat 4 n).toNat = n := by simp [BitVec.toNat_ofNat]; omega
    rw [loadRegs, getV_setV, ih (by omega)]
    by_cases h : r = BitVec.ofNat 4 n
    · subst h
      simp [hnat]
    · have : r.toNat ≠ n := fun e => h (BitVec.eq_of_toNat_eq (by rw [hnat, e]))
      simp only [h, if_false]
      by_cases h2 : r.toNat < n
      · simp [h2, Nat.lt_succ_of_lt h2]
      · have : ¬ r.toNat < n + 1 := by omega
        simp [h2, this]

/-- The registers taken in order. -/
theorem firstRegs_length (s : State) (n : Nat) : (firstRegs s n).length = n := by simp [firstRegs]

/-- The register at each place. -/
theorem firstRegs_get (s : State) (n k : Nat) (h : k < (firstRegs s n).length) :
    (firstRegs s n)[k] = getV s (BitVec.ofNat 4 k) := by simp [firstRegs]

/-! ## The call stack -/

/-- What `Push` answers (R29). -/
theorem push_cases (s : State) (w : Word) :
    (s.stack.length < Config.stackDepth ∧ push s w = .ok { s with stack := w :: s.stack }) ∨
    (Config.stackDepth ≤ s.stack.length ∧ push s w = .error .stackOverflow) := by
  by_cases h : s.stack.length < Config.stackDepth
  · exact .inl ⟨h, by simp [push, h]⟩
  · exact .inr ⟨Nat.le_of_not_lt h, by simp [push, h]⟩

/-- What `Pop` answers (R29). -/
theorem pop_cases (s : State) :
    (∃ w rest, s.stack = w :: rest ∧ pop s = .ok (w, { s with stack := rest })) ∨
    (s.stack = [] ∧ pop s = .error .stackUnderflow) := by
  cases h : s.stack with
  | nil => exact .inr ⟨rfl, by simp [pop, h]⟩
  | cons w rest => exact .inl ⟨w, rest, rfl, by simp [pop, h]⟩

/-! ## Pixels -/

/-- One inversion changes one pixel and no other (R171). -/
theorem pixel_flipPixel (fb : Framebuffer) (y y' : Fin 32) (x x' : Fin 64) :
    pixel (flipPixel fb y x) y' x' = if y' = y ∧ x' = x then !pixel fb y' x' else pixel fb y' x' := by
  by_cases hy : y' = y
  · subst hy
    by_cases hx : x' = x
    · subst hx
      simp [pixel, flipPixel]
    · have hne : x.val ≠ x'.val := fun e => hx (Fin.ext e.symm)
      simp only [pixel, flipPixel, Vector.getElem_set_self, BitVec.getLsbD_xor, BitVec.getLsbD_shiftLeft, hx,
        and_false, if_false]
      by_cases hlt : x'.val < x.val
      · simp [hlt]
      · have : x'.val - x.val ≠ 0 := by omega
        simp [BitVec.getLsbD_one, this]
  · have hne : y.val ≠ y'.val := fun e => hy (Fin.ext e.symm)
    simp [pixel, flipPixel, hy, hne]

/-- Every pixel of a clear framebuffer is 0 (R170). -/
theorem pixel_clearFb (y : Fin 32) (x : Fin 64) : pixel clearFb y x = false := by simp [pixel, clearFb]

/-! ## Keys -/

/-- A key read after a key write (R255). -/
theorem keyPressed_setKey (s : State) (k j : Key) (p : Bool) :
    keyPressed (setKey s k p) j = if j = k then p else keyPressed s j := by
  by_cases h : j = k
  · subst h
    simp [keyPressed]
  · have : k.toNat ≠ j.toNat := fun e => h (BitVec.eq_of_toNat_eq e.symm)
    simp [keyPressed, h, this]

/-- Every key is in the list of keys. -/
theorem mem_allKeys (k : Key) : k ∈ allKeys := by revert k; decide

/-- No least key exactly when no key is pressed (R109). -/
theorem leastKey_eq_none (s : State) : leastKey s = none ↔ ∀ k, keyPressed s k = false := by
  simp [leastKey, List.find?_eq_none, mem_allKeys]

/-- A pressed key below which none is pressed is the least one (R110, R111). -/
theorem leastKey_eq_some (s : State) (k : Key) (hk : keyPressed s k = true)
    (hl : ∀ j : Key, j.toNat < k.toNat → keyPressed s j = false) : leastKey s = some k := by
  have hsplit : ∀ k : Key, allKeys = allKeys.take k.toNat ++ k :: allKeys.drop (k.toNat + 1) := by decide
  have hlow : ∀ k : Key, ∀ j ∈ allKeys.take k.toNat, j.toNat < k.toNat := by decide
  have hnone : (allKeys.take k.toNat).find? (keyPressed s) = none := by
    rw [List.find?_eq_none]
    intro j hj
    simp [hl j (hlow k j hj)]
  rw [leastKey, hsplit k, List.find?_append, hnone]
  simp [hk]

/-! ## Timers -/

/-- A counter after a tick, as a number: one less, and 0 stays 0 (R242, R243). -/
theorem countDown_toNat (w : Byte) : (countDown w).toNat = w.toNat - 1 := by
  unfold countDown
  split
  · simp_all
  · rename_i h
    have hne : w.toNat ≠ 0 := fun e => h (BitVec.eq_of_toNat_eq e)
    have := w.isLt
    rw [BitVec.toNat_sub]
    simp
    omega

/-- When a tick is due (R241, R242). -/
theorem tickDue_iff (s : State) (now : Nat) :
    tickDue s now = true ↔ (s.params.timeBaseHz : Nat) ≤ 60 * (now - s.lastTick) := by
  exact decide_eq_true_iff

/-! ## Step errors -/

/-- Raising an error changes the halted slot and the reply, and nothing else (R107, R108). -/
theorem raiseError_frame (s : State) (k : ErrorKind) (w : Word) :
    raiseError s k w = { s with halted := (raiseError s k w).halted, reply := .step (.error (stepReport s k w)) } := rfl

/-- The timer check touches the two counters and the tick's time, and nothing else (R242). -/
theorem timerCheck_frame (s : State) (now : Nat) :
    timerCheck s now = { s with dt := (timerCheck s now).dt, st := (timerCheck s now).st,
                                lastTick := (timerCheck s now).lastTick } := rfl

end Sys2Proof.Machine
end

