-- ==== Sys2Proof/Laws/PerInstr.lean ====
section
/-! SUPPORT. What holds of every instruction as syntax, one lemma per constructor: its word is one that its own row of
the opcode table admits (R74, R75). -/

namespace Sys2Proof.Laws.EncodeRow

/-- The instruction's word has every digit that the table row with its mnemonic fixes. -/
def Statement (i : Instr) : Prop := ∃ r ∈ opRows, r.mnemonic = i.mnemonic ∧ r.admits (encode i) = true

/-- A nibble masked with ones. -/
theorem and_ones4 (a : BitVec 4) : a &&& 0xF#4 = a := BitVec.and_allOnes

/-- A byte masked with ones. -/
theorem and_ones8 (a : BitVec 8) : a &&& 0xFF#8 = a := BitVec.and_allOnes

/-- The fixed digit of format `NNN` is the high nibble. -/
theorem nnn_digits (op : BitVec 4) (nnn : Addr) : wordNNN op nnn &&& 0xF000#16 = op ++ 0x000#12 := by
  rw [show 0xF000#16 = 0xF#4 ++ 0x000#12 from rfl]
  unfold wordNNN
  rw [BitVec.and_append]
  simp [and_ones4]

/-- The fixed digit of format `XKK` is the high nibble. -/
theorem xkk_digits (op : BitVec 4) (x : Reg) (kk : Byte) :
    wordXKK op x kk &&& 0xF000#16 = (op ++ 0x0#4) ++ 0x00#8 := by
  rw [show 0xF000#16 = (0xF#4 ++ 0x0#4) ++ 0x00#8 from rfl]
  unfold wordXKK
  rw [BitVec.and_append, BitVec.and_append]
  simp [and_ones4]

/-- The fixed digits of format `XSS` are the high nibble and the low byte. -/
theorem xss_digits (op : BitVec 4) (x : Reg) (kk : Byte) :
    wordXKK op x kk &&& 0xF0FF#16 = (op ++ 0x0#4) ++ kk := by
  rw [show 0xF0FF#16 = (0xF#4 ++ 0x0#4) ++ 0xFF#8 from rfl]
  unfold wordXKK
  rw [BitVec.and_append, BitVec.and_append]
  simp [and_ones4, and_ones8]

/-- The fixed digits of formats `XY0` and `XYS` are the high and the low nibble. -/
theorem xys_digits (op : BitVec 4) (x y : Reg) (n : BitVec 4) :
    wordXYN op x y n &&& 0xF00F#16 = ((op ++ 0x0#4) ++ 0x0#4) ++ n := by
  rw [show 0xF00F#16 = ((0xF#4 ++ 0x0#4) ++ 0x0#4) ++ 0xF#4 from rfl]
  unfold wordXYN
  rw [BitVec.and_append, BitVec.and_append, BitVec.and_append]
  simp [and_ones4]

/-- The fixed digit of format `XYN` is the high nibble. -/
theorem xyn_digits (op : BitVec 4) (x y : Reg) (n : BitVec 4) :
    wordXYN op x y n &&& 0xF000#16 = ((op ++ 0x0#4) ++ 0x0#4) ++ 0x0#4 := by
  rw [show 0xF000#16 = ((0xF#4 ++ 0x0#4) ++ 0x0#4) ++ 0x0#4 from rfl]
  unfold wordXYN
  rw [BitVec.and_append, BitVec.and_append, BitVec.and_append]
  simp [and_ones4]

/-- A row of the table that has the instruction's mnemonic and admits its word. -/
theorem of_row {i : Instr} (r : OpRow) (hr : r ∈ opRows) (hm : r.mnemonic = i.mnemonic)
    (ha : encode i &&& r.mask = r.pat) : Statement i :=
  ⟨r, hr, hm, by simp [OpRow.admits, ha]⟩

theorem cls : Statement .cls :=
  of_row ⟨"CLS", 0x00E0#16, 0xFFFF#16⟩ (List.getElem_mem (by decide : 0 < opRows.length))
    rfl rfl

theorem ret : Statement .ret :=
  of_row ⟨"RET", 0x00EE#16, 0xFFFF#16⟩ (List.getElem_mem (by decide : 1 < opRows.length))
    rfl rfl

theorem jp (nnn : Addr) : Statement (.jp nnn) :=
  of_row ⟨"JP_addr", 0x1000#16, 0xF000#16⟩ (List.getElem_mem (by decide : 2 < opRows.length))
    rfl (nnn_digits 0x1#4 nnn)

theorem call (nnn : Addr) : Statement (.call nnn) :=
  of_row ⟨"CALL_addr", 0x2000#16, 0xF000#16⟩ (List.getElem_mem (by decide : 3 < opRows.length))
    rfl (nnn_digits 0x2#4 nnn)

theorem seByte (x : Reg) (kk : Byte) : Statement (.seByte x kk) :=
  of_row ⟨"SE_Vx_byte", 0x3000#16, 0xF000#16⟩ (List.getElem_mem (by decide : 4 < opRows.length))
    rfl (xkk_digits 0x3#4 x kk)

theorem sneByte (x : Reg) (kk : Byte) : Statement (.sneByte x kk) :=
  of_row ⟨"SNE_Vx_byte", 0x4000#16, 0xF000#16⟩ (List.getElem_mem (by decide : 5 < opRows.length))
    rfl (xkk_digits 0x4#4 x kk)

theorem seReg (x y : Reg) : Statement (.seReg x y) :=
  of_row ⟨"SE_Vx_Vy", 0x5000#16, 0xF00F#16⟩ (List.getElem_mem (by decide : 6 < opRows.length))
    rfl (xys_digits 0x5#4 x y 0x0#4)

theorem ldByte (x : Reg) (kk : Byte) : Statement (.ldByte x kk) :=
  of_row ⟨"LD_Vx_byte", 0x6000#16, 0xF000#16⟩ (List.getElem_mem (by decide : 7 < opRows.length))
    rfl (xkk_digits 0x6#4 x kk)

theorem addByte (x : Reg) (kk : Byte) : Statement (.addByte x kk) :=
  of_row ⟨"ADD_Vx_byte", 0x7000#16, 0xF000#16⟩ (List.getElem_mem (by decide : 8 < opRows.length))
    rfl (xkk_digits 0x7#4 x kk)

theorem ldReg (x y : Reg) : Statement (.ldReg x y) :=
  of_row ⟨"LD_Vx_Vy", 0x8000#16, 0xF00F#16⟩ (List.getElem_mem (by decide : 9 < opRows.length))
    rfl (xys_digits 0x8#4 x y 0x0#4)

theorem orReg (x y : Reg) : Statement (.orReg x y) :=
  of_row ⟨"OR_Vx_Vy", 0x8001#16, 0xF00F#16⟩ (List.getElem_mem (by decide : 10 < opRows.length))
    rfl (xys_digits 0x8#4 x y 0x1#4)

theorem andReg (x y : Reg) : Statement (.andReg x y) :=
  of_row ⟨"AND_Vx_Vy", 0x8002#16, 0xF00F#16⟩ (List.getElem_mem (by decide : 11 < opRows.length))
    rfl (xys_digits 0x8#4 x y 0x2#4)

theorem xorReg (x y : Reg) : Statement (.xorReg x y) :=
  of_row ⟨"XOR_Vx_Vy", 0x8003#16, 0xF00F#16⟩ (List.getElem_mem (by decide : 12 < opRows.length))
    rfl (xys_digits 0x8#4 x y 0x3#4)

theorem addReg (x y : Reg) : Statement (.addReg x y) :=
  of_row ⟨"ADD_Vx_Vy", 0x8004#16, 0xF00F#16⟩ (List.getElem_mem (by decide : 13 < opRows.length))
    rfl (xys_digits 0x8#4 x y 0x4#4)

theorem subReg (x y : Reg) : Statement (.subReg x y) :=
  of_row ⟨"SUB_Vx_Vy", 0x8005#16, 0xF00F#16⟩ (List.getElem_mem (by decide : 14 < opRows.length))
    rfl (xys_digits 0x8#4 x y 0x5#4)

theorem shr (x y : Reg) : Statement (.shr x y) :=
  of_row ⟨"SHR_Vx___Vy", 0x8006#16, 0xF00F#16⟩ (List.getElem_mem (by decide : 15 < opRows.length))
    rfl (xys_digits 0x8#4 x y 0x6#4)

theorem subnReg (x y : Reg) : Statement (.subnReg x y) :=
  of_row ⟨"SUBN_Vx_Vy", 0x8007#16, 0xF00F#16⟩ (List.getElem_mem (by decide : 16 < opRows.length))
    rfl (xys_digits 0x8#4 x y 0x7#4)

theorem shl (x y : Reg) : Statement (.shl x y) :=
  of_row ⟨"SHL_Vx___Vy", 0x800E#16, 0xF00F#16⟩ (List.getElem_mem (by decide : 17 < opRows.length))
    rfl (xys_digits 0x8#4 x y 0xE#4)

theorem sneReg (x y : Reg) : Statement (.sneReg x y) :=
  of_row ⟨"SNE_Vx_Vy", 0x9000#16, 0xF00F#16⟩ (List.getElem_mem (by decide : 18 < opRows.length))
    rfl (xys_digits 0x9#4 x y 0x0#4)

theorem ldI (nnn : Addr) : Statement (.ldI nnn) :=
  of_row ⟨"LD_I_addr", 0xA000#16, 0xF000#16⟩ (List.getElem_mem (by decide : 19 < opRows.length))
    rfl (nnn_digits 0xA#4 nnn)

theorem jpV0 (nnn : Addr) : Statement (.jpV0 nnn) :=
  of_row ⟨"JP_V0_addr", 0xB000#16, 0xF000#16⟩ (List.getElem_mem (by decide : 20 < opRows.length))
    rfl (nnn_digits 0xB#4 nnn)

theorem rnd (x : Reg) (kk : Byte) : Statement (.rnd x kk) :=
  of_row ⟨"RND_Vx_byte", 0xC000#16, 0xF000#16⟩ (List.getElem_mem (by decide : 21 < opRows.length))
    rfl (xkk_digits 0xC#4 x kk)

theorem drw (x y : Reg) (n : RowCount) : Statement (.drw x y n) :=
  of_row ⟨"DRW_Vx_Vy_n", 0xD000#16, 0xF000#16⟩ (List.getElem_mem (by decide : 22 < opRows.length))
    rfl (xyn_digits 0xD#4 x y n)

theorem skp (x : Reg) : Statement (.skp x) :=
  of_row ⟨"SKP_Vx", 0xE09E#16, 0xF0FF#16⟩ (List.getElem_mem (by decide : 23 < opRows.length))
    rfl (xss_digits 0xE#4 x 0x9E#8)

theorem sknp (x : Reg) : Statement (.sknp x) :=
  of_row ⟨"SKNP_Vx", 0xE0A1#16, 0xF0FF#16⟩ (List.getElem_mem (by decide : 24 < opRows.length))
    rfl (xss_digits 0xE#4 x 0xA1#8)

theorem ldVxDT (x : Reg) : Statement (.ldVxDT x) :=
  of_row ⟨"LD_Vx_DT", 0xF007#16, 0xF0FF#16⟩ (List.getElem_mem (by decide : 25 < opRows.length))
    rfl (xss_digits 0xF#4 x 0x07#8)

theorem ldVxK (x : Reg) : Statement (.ldVxK x) :=
  of_row ⟨"LD_Vx_K", 0xF00A#16, 0xF0FF#16⟩ (List.getElem_mem (by decide : 26 < opRows.length))
    rfl (xss_digits 0xF#4 x 0x0A#8)

theorem ldDTVx (x : Reg) : Statement (.ldDTVx x) :=
  of_row ⟨"LD_DT_Vx", 0xF015#16, 0xF0FF#16⟩ (List.getElem_mem (by decide : 27 < opRows.length))
    rfl (xss_digits 0xF#4 x 0x15#8)

theorem ldSTVx (x : Reg) : Statement (.ldSTVx x) :=
  of_row ⟨"LD_ST_Vx", 0xF018#16, 0xF0FF#16⟩ (List.getElem_mem (by decide : 28 < opRows.length))
    rfl (xss_digits 0xF#4 x 0x18#8)

theorem addIVx (x : Reg) : Statement (.addIVx x) :=
  of_row ⟨"ADD_I_Vx", 0xF01E#16, 0xF0FF#16⟩ (List.getElem_mem (by decide : 29 < opRows.length))
    rfl (xss_digits 0xF#4 x 0x1E#8)

theorem ldFVx (x : Reg) : Statement (.ldFVx x) :=
  of_row ⟨"LD_F_Vx", 0xF029#16, 0xF0FF#16⟩ (List.getElem_mem (by decide : 30 < opRows.length))
    rfl (xss_digits 0xF#4 x 0x29#8)

theorem ldBVx (x : Reg) : Statement (.ldBVx x) :=
  of_row ⟨"LD_B_Vx", 0xF033#16, 0xF0FF#16⟩ (List.getElem_mem (by decide : 31 < opRows.length))
    rfl (xss_digits 0xF#4 x 0x33#8)

theorem ldMemVx (x : Reg) : Statement (.ldMemVx x) :=
  of_row ⟨"LD__I__Vx", 0xF055#16, 0xF0FF#16⟩ (List.getElem_mem (by decide : 32 < opRows.length))
    rfl (xss_digits 0xF#4 x 0x55#8)

theorem ldVxMem (x : Reg) : Statement (.ldVxMem x) :=
  of_row ⟨"LD_Vx__I", 0xF065#16, 0xF0FF#16⟩ (List.getElem_mem (by decide : 33 < opRows.length))
    rfl (xss_digits 0xF#4 x 0x65#8)

end Sys2Proof.Laws.EncodeRow
end

