-- ==== Sys2Proof/Laws/Sprite.lean ====
section
/-! SUPPORT. What drawing does: which pixels a sprite inverts, that it inverts none of them twice (R176), and what a list
of inversions leaves in each pixel. -/

namespace Sys2Proof.Machine

/-- The pixels one sprite row inverts (R172, R173). -/
theorem mem_spriteRowPixels (x0 y : Nat) (row : Byte) (p : Fin 32 × Fin 64) :
    p ∈ spriteRowPixels x0 y row ↔
      ∃ c < 8, row.getLsbD (7 - c) = true ∧ p.1.val = y % 32 ∧ p.2.val = (x0 + c) % 64 := by
  obtain ⟨a, b⟩ := p
  simp only [spriteRowPixels, List.mem_map, List.mem_filter, List.mem_range, Prod.mk.injEq]
  constructor
  · rintro ⟨c, ⟨h1, h2⟩, rfl, rfl⟩
    exact ⟨c, h1, h2, rfl, rfl⟩
  · rintro ⟨c, h1, h2, h3, h4⟩
    exact ⟨c, ⟨h1, h2⟩, Fin.ext h3.symm, Fin.ext h4.symm⟩

/-- The pixels a sprite inverts (R171 to R173). -/
theorem mem_spritePixels (x0 : Nat) (rows : List Byte) (y0 : Nat) (p : Fin 32 × Fin 64) :
    p ∈ spritePixels x0 y0 rows ↔ ∃ r, ∃ h : r < rows.length, ∃ c < 8,
      rows[r].getLsbD (7 - c) = true ∧ p.1.val = (y0 + r) % 32 ∧ p.2.val = (x0 + c) % 64 := by
  induction rows generalizing y0 with
  | nil => simp [spritePixels]
  | cons w ws ih =>
    simp only [spritePixels, List.mem_append, ih, mem_spriteRowPixels]
    constructor
    · rintro (h | ⟨r, h, c, h2⟩)
      · exact ⟨0, by simp, by simpa using h⟩
      · exact ⟨r + 1, by simp [h], c, by simpa [Nat.add_assoc, Nat.add_comm 1 r] using h2⟩
    · rintro ⟨r, h, c, h2⟩
      cases r with
      | zero => exact .inl ⟨c, by simpa using h2⟩
      | succ r => exact .inr ⟨r, by simpa using h, c, by simpa [Nat.add_assoc, Nat.add_comm 1 r] using h2⟩

/-- One row inverts no pixel twice: its 8 columns are distinct modulo 64 (R176). -/
theorem nodup_spriteRowPixels (x0 y : Nat) (row : Byte) : (spriteRowPixels x0 y row).Nodup := by
  unfold spriteRowPixels
  refine List.Nodup.map_on (fun a ha b hb h => ?_) (List.nodup_range.filter _)
  simp only [List.mem_filter, List.mem_range] at ha hb
  have hv := congrArg (fun p : Fin 32 × Fin 64 => p.2.val) h
  simp [wrapCol] at hv
  omega

/-- A sprite of at most 32 rows inverts no pixel twice: its rows are distinct modulo 32 (R176). -/
theorem nodup_spritePixels (x0 : Nat) (rows : List Byte) (y0 : Nat) (hl : rows.length ≤ 32) :
    (spritePixels x0 y0 rows).Nodup := by
  induction rows generalizing y0 with
  | nil => simp [spritePixels]
  | cons w ws ih =>
    simp only [List.length_cons] at hl
    refine List.nodup_append.2 ⟨nodup_spriteRowPixels _ _ _, ih _ (by omega), fun p hp q hq e => ?_⟩
    subst e
    obtain ⟨_, _, _, h1, _⟩ := (mem_spriteRowPixels _ _ _ _).1 hp
    obtain ⟨r, hr, _, _, _, h2, _⟩ := (mem_spritePixels _ _ _ _).1 hq
    omega

/-- Each listed pixel is inverted once and every other pixel is unchanged (R171). -/
theorem pixel_flipPixels (ps : List (Fin 32 × Fin 64)) (fb : Framebuffer) (hn : ps.Nodup) (y : Fin 32) (x : Fin 64) :
    pixel (flipPixels fb ps) y x = if (y, x) ∈ ps then !pixel fb y x else pixel fb y x := by
  induction ps generalizing fb with
  | nil => simp [flipPixels]
  | cons p ps ih =>
    obtain ⟨y', x'⟩ := p
    simp only [List.nodup_cons] at hn
    rw [flipPixels, ih _ hn.2, pixel_flipPixel]
    by_cases h : y = y' ∧ x = x'
    · obtain ⟨rfl, rfl⟩ := h
      simp [hn.1]
    · simp [h, Prod.ext_iff]

/-- The collision flag says whether a listed pixel was 1 before the drawing (R174, R176). -/
theorem collides_iff (ps : List (Fin 32 × Fin 64)) (fb : Framebuffer) (hn : ps.Nodup) :
    collides fb ps = true ↔ ∃ p ∈ ps, pixel fb p.1 p.2 = true := by
  induction ps generalizing fb with
  | nil => simp [collides]
  | cons p ps ih =>
    obtain ⟨y', x'⟩ := p
    simp only [List.nodup_cons] at hn
    have hne : ∀ q ∈ ps, ¬ (q.1 = y' ∧ q.2 = x') := fun q hq e => hn.1 (by rw [← e.1, ← e.2]; exact hq)
    simp only [collides, Bool.or_eq_true, ih _ hn.2, List.mem_cons, exists_eq_or_imp, pixel_flipPixel]
    refine or_congr Iff.rfl ⟨?_, ?_⟩
    · rintro ⟨q, hq, h⟩
      exact ⟨q, hq, by simpa [hne q hq] using h⟩
    · rintro ⟨q, hq, h⟩
      exact ⟨q, hq, by simpa [hne q hq] using h⟩

end Sys2Proof.Machine
end

