-- ==== Sys2Proof/Tests/Slice0.lean ====
section
/-! SUPPORT. Small tests. Words and expected values come from `spec/95_test_vectors.md` (the vector's id stands in each
comment), `30_encoding.md` R74 and R82, and hand calculation from the rules; after them, for each statement with
hypotheses, a state and operands that meet all of them. -/

namespace Sys2Proof.Tests

open Sys2Proof.Machine

/-! ## Small states -/

/-- The start state of the vectors: `reset(0)` with `TIME_BASE_HZ = 600`, `SHIFT_SOURCE = Vx`, `ERROR_POLICY = Continue`. -/
def base : State := State.resetTo 0 ⟨.vx, .continueRunning, 600⟩ 0x00#8 [] 0 .none

/-- That state with two registers set. -/
def regs2 (x : Reg) (a : Byte) (y : Reg) (b : Byte) : State := setV (setV base x a) y b

/-- With `I` set. -/
def atI (s : State) (i : Word) : State := setI s i

/-- With `SHIFT_SOURCE = Vy`. -/
def underVy (s : State) : State := { s with params := { s.params with shiftSource := .vy } }

/-- With `ERROR_POLICY = Halt`. -/
def underHalt (s : State) : State := { s with params := { s.params with errorPolicy := .halt } }

/-- The word put at `pc` and one step asked for. -/
def ready (s : State) (w : Nat) (now : Nat) (rand : Byte) : State :=
  { s.withFetchWord 16 w with inbox := [.step now rand] }

/-- The state after one step of the machine. -/
def next (s : State) : State :=
  match step s with
  | .next t => t
  | _ => s

/-- The state after the word runs in one step at `now = 0`. -/
def after (s : State) (w : Nat) : State := next (ready s w 0 0x00#8)

/-- The state after the word runs in one step at this time. -/
def afterAt (s : State) (w now : Nat) : State := next (ready s w now 0x00#8)

/-- The state after the host performs one operation. -/
def hosted (s : State) (op : HostOp) : State := next { s with inbox := [op] }

/-! ## Well-formed words: one ill-formed word for each digit the table fixes (R75, R77) -/

theorem test_wellFormed_refuses : wordWellFormed 0x0000#16 = false ∧ wordWellFormed 0x00E1#16 = false ∧
    wordWellFormed 0x0123#16 = false ∧ wordWellFormed 0x00FF#16 = false ∧ wordWellFormed 0x5121#16 = false ∧
    wordWellFormed 0x8008#16 = false ∧ wordWellFormed 0x9121#16 = false ∧ wordWellFormed 0xE09F#16 = false ∧
    wordWellFormed 0xF000#16 = false := by decide

theorem test_wellFormed_admits : wordWellFormed 0x00E0#16 = true ∧ wordWellFormed 0x1300#16 = true ∧
    wordWellFormed 0x5120#16 = true ∧ wordWellFormed 0x800E#16 = true ∧ wordWellFormed 0xFF65#16 = true := by decide

/-! ## Decoding, every constructor from a word written out from R74 -/

theorem test_decode_fixed : decodeWord 0x00E0#16 = .ok .cls ∧ decodeWord 0x00EE#16 = .ok .ret := by decide

theorem test_decode_nnn : decodeWord 0b0001001100000000#16 = .ok (.jp 0x300#12) ∧
    decodeWord 0b0010010000000000#16 = .ok (.call 0x400#12) ∧ decodeWord 0xA20E#16 = .ok (.ldI 0x20E#12) ∧
    decodeWord 0xBFFF#16 = .ok (.jpV0 0xFFF#12) := by decide

theorem test_decode_xkk : decodeWord 0x3312#16 = .ok (.seByte 0x3#4 0x12#8) ∧
    decodeWord 0x4312#16 = .ok (.sneByte 0x3#4 0x12#8) ∧ decodeWord 0x65AB#16 = .ok (.ldByte 0x5#4 0xAB#8) ∧
    decodeWord 0x7202#16 = .ok (.addByte 0x2#4 0x02#8) ∧ decodeWord 0xC40F#16 = .ok (.rnd 0x4#4 0x0F#8) := by decide

theorem test_decode_xy : decodeWord 0x5120#16 = .ok (.seReg 0x1#4 0x2#4) ∧
    decodeWord 0x9120#16 = .ok (.sneReg 0x1#4 0x2#4) ∧ decodeWord 0x8120#16 = .ok (.ldReg 0x1#4 0x2#4) ∧
    decodeWord 0x8121#16 = .ok (.orReg 0x1#4 0x2#4) ∧ decodeWord 0x8122#16 = .ok (.andReg 0x1#4 0x2#4) ∧
    decodeWord 0x8123#16 = .ok (.xorReg 0x1#4 0x2#4) := by decide

theorem test_decode_xy_flags : decodeWord 0b1000000000010100#16 = .ok (.addReg 0x0#4 0x1#4) ∧
    decodeWord 0b1000000000010101#16 = .ok (.subReg 0x0#4 0x1#4) ∧ decodeWord 0x8126#16 = .ok (.shr 0x1#4 0x2#4) ∧
    decodeWord 0x8127#16 = .ok (.subnReg 0x1#4 0x2#4) ∧ decodeWord 0x812E#16 = .ok (.shl 0x1#4 0x2#4) ∧
    decodeWord 0xD125#16 = .ok (.drw 0x1#4 0x2#4 0x5#4) := by decide

theorem test_decode_x : decodeWord 0xE19E#16 = .ok (.skp 0x1#4) ∧ decodeWord 0xE1A1#16 = .ok (.sknp 0x1#4) ∧
    decodeWord 0xF607#16 = .ok (.ldVxDT 0x6#4) ∧ decodeWord 0b1111010100001010#16 = .ok (.ldVxK 0x5#4) ∧
    decodeWord 0xF015#16 = .ok (.ldDTVx 0x0#4) ∧ decodeWord 0xF018#16 = .ok (.ldSTVx 0x0#4) := by decide

theorem test_decode_x_memory : decodeWord 0xF21E#16 = .ok (.addIVx 0x2#4) ∧ decodeWord 0xF329#16 = .ok (.ldFVx 0x3#4) ∧
    decodeWord 0b1111000000110011#16 = .ok (.ldBVx 0x0#4) ∧ decodeWord 0xF255#16 = .ok (.ldMemVx 0x2#4) ∧
    decodeWord 0xF265#16 = .ok (.ldVxMem 0x2#4) := by decide

theorem test_decode_refuses : decodeWord 0x5121#16 = .error (.unrecognised 0x5121#16) ∧
    decodeWord 0x0123#16 = .error (.unrecognised 0x0123#16) ∧ decodeBytes [0x12#8] = .error .truncated ∧
    decodeTableWord 16 0x8008 = none ∧ decodeTableWord 16 0xF50A = some (.ldVxK 0x5#4) := by decide

/-! ## The step cycle -/

/-- S1. -/
theorem test_step_runs : getV (after base 0x6A12) 0xA#4 = 0x12#8 ∧ (after base 0x6A12).pc = 0x202#16 := by decide

/-- S2: a word split across 0xFFF and 0x000. -/
theorem test_fetch_wraps : (next { memWrite (setPc base 0xFFF#16) 0xFFF 0x12#8 with inbox := [.step 0 0x00#8] }).pc
    = 0x2F0#16 := by decide

/-- S3: a `pc` above 0xFFF fetches at its low 12 bits and keeps its own value. -/
theorem test_pc_above_memory : (after (setPc base 0x10FE#16) 0x6001).pc = 0x1100#16 ∧
    getV (after (setPc base 0x10FE#16) 0x6001) 0x0#4 = 0x01#8 := by decide

/-- S4 and S14: an unrecognised word under Continue; no timer check. -/
theorem test_unknown_continue : (afterAt (setDT base 0x05#8) 0x0000 100).pc = 0x202#16 ∧
    (afterAt (setDT base 0x05#8) 0x0000 100).reply = .step (.error ⟨.unknownOpcode, 1, 0x0000#16, 0x200#16⟩) ∧
    (afterAt (setDT base 0x05#8) 0x0000 100).halted = none ∧ (afterAt (setDT base 0x05#8) 0x0000 100).dt = 0x05#8 ∧
    (afterAt (setDT base 0x05#8) 0x0000 100).lastTick = 0 := by decide

/-- S12: the same under Halt. -/
theorem test_unknown_halt : (after (underHalt base) 0x0000).halted = some ⟨.unknownOpcode, 1, 0x0000#16, 0x200#16⟩ := by
  decide

/-- S13: a Halted step. -/
theorem test_halted_step : (hosted (setDT (after (underHalt base) 0x0000) 0x05#8) (.step 1000 0x00#8)).reply =
      .step (.halted ⟨.unknownOpcode, 1, 0x0000#16, 0x200#16⟩) ∧
    (hosted (setDT (after (underHalt base) 0x0000) 0x05#8) (.step 1000 0x00#8)).lastTick = 0 ∧
    (hosted (setDT (after (underHalt base) 0x0000) 0x05#8) (.step 1000 0x00#8)).dt = 0x05#8 := by decide

/-- K12: the least pressed key resolves the wait; nothing is fetched. -/
theorem test_wait_resolves :
    getV (hosted (setKey (setKey (setWait base (some 0x5#4)) 0x9#4 true) 0x2#4 true) (.step 0 0x00#8)) 0x5#4 = 0x02#8 ∧
    (hosted (setKey (setKey (setWait base (some 0x5#4)) 0x9#4 true) 0x2#4 true) (.step 0 0x00#8)).wait = none ∧
    (hosted (setKey (setKey (setWait base (some 0x5#4)) 0x9#4 true) 0x2#4 true) (.step 0 0x00#8)).pc = 0x200#16 ∧
    (hosted (setKey (setKey (setWait base (some 0x5#4)) 0x9#4 true) 0x2#4 true) (.step 0 0x00#8)).reply
      = .step (.keyResolved 0x2#4) := by decide

/-- K13: a Waiting step with no key runs the timer check. -/
theorem test_wait_ticks : (hosted (setDT (setWait base (some 0x5#4)) 0x03#8) (.step 10 0x00#8)).dt = 0x02#8 ∧
    (hosted (setDT (setWait base (some 0x5#4)) 0x03#8) (.step 10 0x00#8)).wait = some 0x5#4 ∧
    (hosted (setDT (setWait base (some 0x5#4)) 0x03#8) (.step 10 0x00#8)).reply = .step .waiting := by decide

/-- T1 and T2: the tick is due at `60 * elapsed = 600`, not before. -/
theorem test_tick_due : (afterAt (setDT base 0x05#8) 0x6000 9).dt = 0x05#8 ∧
    (afterAt (setDT base 0x05#8) 0x6000 9).lastTick = 0 ∧ (afterAt (setDT base 0x05#8) 0x6000 10).dt = 0x04#8 ∧
    (afterAt (setDT base 0x05#8) 0x6000 10).lastTick = 10 := by decide

/-- T4, T5 and T6: counters stop at 0, one decrement however long the gap, a decreasing `now` counts as no time. -/
theorem test_tick_bounds : (afterAt (setST base 0x03#8) 0x6000 10).dt = 0x00#8 ∧
    (afterAt (setST base 0x03#8) 0x6000 10).st = 0x02#8 ∧ (afterAt (setDT base 0x05#8) 0x6000 1000).dt = 0x04#8 ∧
    (afterAt { setDT base 0x05#8 with lastTick := 50 } 0x6000 40).dt = 0x05#8 ∧
    (afterAt { setDT base 0x05#8 with lastTick := 50 } 0x6000 40).lastTick = 50 := by decide

/-! ## Control flow -/

/-- F1 and F2. -/
theorem test_ret : (after { base with stack := [0x206#16] } 0x00EE).pc = 0x206#16 ∧
    (after { base with stack := [0x206#16] } 0x00EE).stack = [] ∧ (after base 0x00EE).pc = 0x202#16 ∧
    (after base 0x00EE).reply = .step (.error ⟨.stackUnderflow, 3, 0x00EE#16, 0x200#16⟩) := by decide

/-- F3 and F4. -/
theorem test_jp : (after base 0x1300).pc = 0x300#16 ∧ (after base 0x1200).pc = 0x200#16 := by decide

/-- F6 and F8: a push at depth 15, and a saved `pc` of 0x1000. -/
theorem test_call : (after { base with stack := List.replicate 15 0x111#16 } 0x2400).stack.length = 16 ∧
    (after { base with stack := List.replicate 15 0x111#16 } 0x2400).pc = 0x400#16 ∧
    (after (setPc base 0xFFE#16) 0x2300).stack = [0x1000#16] := by decide

/-- F7: depth 16. -/
theorem test_call_overflow : (after { base with stack := List.replicate 16 0x111#16 } 0x2400).pc = 0x202#16 ∧
    (after { base with stack := List.replicate 16 0x111#16 } 0x2400).stack = List.replicate 16 0x111#16 ∧
    (after { base with stack := List.replicate 16 0x111#16 } 0x2400).reply =
      .step (.error ⟨.stackOverflow, 2, 0x2400#16, 0x200#16⟩) := by decide

/-- F9, F10 and F18. -/
theorem test_se_byte : (after (setV base 0x3#4 0x12#8) 0x3312).pc = 0x204#16 ∧
    (after (setV base 0x3#4 0x13#8) 0x3312).pc = 0x202#16 ∧ (after (setPc base 0xFFE#16) 0x3000).pc = 0x1002#16 := by
  decide

/-- F11 and F12. -/
theorem test_sne_byte : (after (setV base 0x3#4 0x12#8) 0x4312).pc = 0x202#16 ∧ (after base 0x4312).pc = 0x204#16 := by
  decide

/-- F13 and F14. -/
theorem test_se_reg : (after (regs2 0x1#4 0x07#8 0x2#4 0x07#8) 0x5120).pc = 0x204#16 ∧
    (after (regs2 0x1#4 0x07#8 0x2#4 0x08#8) 0x5120).pc = 0x202#16 ∧ (after base 0x5110).pc = 0x204#16 := by decide

/-- F15 and F16. -/
theorem test_sne_reg : (after (regs2 0x1#4 0x07#8 0x2#4 0x08#8) 0x9120).pc = 0x204#16 ∧
    (after base 0x9110).pc = 0x202#16 := by decide

/-- F20 and F21: the sum stays above 0xFFF, and V5 plays no part. -/
theorem test_jp_v0 : (after (setV base 0x0#4 0xFF#8) 0xBFFF).pc = 0x10FE#16 ∧
    (after (setV base 0x5#4 0x40#8) 0xBFFF).pc = 0xFFF#16 := by decide

/-! ## Register loads and arithmetic -/

/-- A2. -/
theorem test_ld_byte : getV (after base 0x6FAB) 0xF#4 = 0xAB#8 := by decide

/-- A3: the sum wraps and VF is left alone. -/
theorem test_add_byte : getV (after (regs2 0x2#4 0xFF#8 0xF#4 0x55#8) 0x7202) 0x2#4 = 0x01#8 ∧
    getV (after (regs2 0x2#4 0xFF#8 0xF#4 0x55#8) 0x7202) 0xF#4 = 0x55#8 := by decide

/-- A5. -/
theorem test_ld_reg : getV (after (setV base 0x1#4 0x33#8) 0x8010) 0x0#4 = 0x33#8 := by decide

/-- A6: VF is left alone. -/
theorem test_or : getV (after (setV (regs2 0x0#4 0xF0#8 0x1#4 0x0F#8) 0xF#4 0x77#8) 0x8011) 0x0#4 = 0xFF#8 ∧
    getV (after (setV (regs2 0x0#4 0xF0#8 0x1#4 0x0F#8) 0xF#4 0x77#8) 0x8011) 0xF#4 = 0x77#8 := by decide

/-- A7. -/
theorem test_and : getV (after (regs2 0x0#4 0xF0#8 0x1#4 0x3C#8) 0x8012) 0x0#4 = 0x30#8 := by decide

/-- A8 and A9. -/
theorem test_xor : getV (after (regs2 0x0#4 0xFF#8 0x1#4 0x0F#8) 0x8013) 0x0#4 = 0xF0#8 ∧
    getV (after (setV base 0x4#4 0x5A#8) 0x8443) 0x4#4 = 0x00#8 := by decide

/-- L1.4 and A10. -/
theorem test_add_carry : getV (after (regs2 0x0#4 0xFF#8 0x1#4 0x01#8) 0x8014) 0x0#4 = 0x00#8 ∧
    getV (after (regs2 0x0#4 0xFF#8 0x1#4 0x01#8) 0x8014) 0xF#4 = 0x01#8 ∧
    getV (after (setV (regs2 0x0#4 0x7F#8 0x1#4 0x01#8) 0xF#4 0x01#8) 0x8014) 0xF#4 = 0x00#8 := by decide

/-- A12: x = F keeps the carry. -/
theorem test_add_into_vf : getV (after (regs2 0xF#4 0x80#8 0x1#4 0x90#8) 0x8F14) 0xF#4 = 0x01#8 := by decide

/-- L1.5 and A13. -/
theorem test_sub : getV (after (regs2 0x0#4 0x01#8 0x1#4 0x02#8) 0x8015) 0x0#4 = 0xFF#8 ∧
    getV (after (regs2 0x0#4 0x01#8 0x1#4 0x02#8) 0x8015) 0xF#4 = 0x00#8 ∧
    getV (after (regs2 0x0#4 0x05#8 0x1#4 0x05#8) 0x8015) 0xF#4 = 0x01#8 := by decide

/-- A15 and A16. -/
theorem test_subn : getV (after (regs2 0x0#4 0x02#8 0x1#4 0x01#8) 0x8017) 0x0#4 = 0xFF#8 ∧
    getV (after (regs2 0x0#4 0x02#8 0x1#4 0x01#8) 0x8017) 0xF#4 = 0x00#8 ∧
    getV (after (regs2 0x0#4 0x03#8 0x1#4 0x05#8) 0x8017) 0x0#4 = 0x02#8 ∧
    getV (after (regs2 0x0#4 0x03#8 0x1#4 0x05#8) 0x8017) 0xF#4 = 0x01#8 := by decide

/-- A18 and A19: the two shift sources. -/
theorem test_shr : getV (after (regs2 0x1#4 0x04#8 0x2#4 0x81#8) 0x8126) 0x1#4 = 0x02#8 ∧
    getV (after (regs2 0x1#4 0x04#8 0x2#4 0x81#8) 0x8126) 0xF#4 = 0x00#8 ∧
    getV (after (underVy (regs2 0x1#4 0x04#8 0x2#4 0x81#8)) 0x8126) 0x1#4 = 0x40#8 ∧
    getV (after (underVy (regs2 0x1#4 0x04#8 0x2#4 0x81#8)) 0x8126) 0xF#4 = 0x01#8 := by decide

/-- A20, A21 and A22: VF as the destination and as the source. -/
theorem test_shr_vf : getV (after (regs2 0x0#4 0x10#8 0xF#4 0x03#8) 0x8F06) 0xF#4 = 0x01#8 ∧
    getV (after (underVy (regs2 0x0#4 0x10#8 0xF#4 0x03#8)) 0x8F06) 0xF#4 = 0x00#8 ∧
    getV (after (underVy (regs2 0x1#4 0x00#8 0xF#4 0x03#8)) 0x81F6) 0x1#4 = 0x01#8 := by decide

/-- A24 and A25. -/
theorem test_shl : getV (after (regs2 0x1#4 0x04#8 0x2#4 0x81#8) 0x812E) 0x1#4 = 0x08#8 ∧
    getV (after (regs2 0x1#4 0x04#8 0x2#4 0x81#8) 0x812E) 0xF#4 = 0x00#8 ∧
    getV (after (underVy (regs2 0x1#4 0x04#8 0x2#4 0x81#8)) 0x812E) 0x1#4 = 0x02#8 ∧
    getV (after (underVy (regs2 0x1#4 0x04#8 0x2#4 0x81#8)) 0x812E) 0xF#4 = 0x01#8 := by decide

/-- A26. -/
theorem test_rnd : getV (next (ready base 0xC40F 0 0xA7#8)) 0x4#4 = 0x07#8 := by decide

/-! ## Display -/

/-- D12 with a set pixel: every pixel of the two corner rows is 0 after CLS and VF is left alone. -/
theorem test_cls : (after (setV (setFb base (flipPixel clearFb 31 63)) 0xF#4 0x33#8) 0x00E0).fb[31] = 0#64 ∧
    getV (after (setV (setFb base (flipPixel clearFb 31 63)) 0xF#4 0x33#8) 0x00E0) 0xF#4 = 0x33#8 := by decide

/-- D4 and D6: both coordinates wrap, for a pixel and for the origin. -/
theorem test_drw_wraps :
    (after (setV (memWrite (atI base 0x300#16) 0x300 0xFF#8) 0x0#4 60#8) 0xD011).fb[0] = 0xF00000000000000F#64 ∧
    pixel (after (setV (setV (memWrite (atI base 0x300#16) 0x300 0x80#8) 0x0#4 70#8) 0x1#4 40#8) 0xD011).fb 8 6 = true := by
  decide

/-- D7 and D10: collision, and VF as the column. -/
theorem test_drw_collides :
    (after (setFb (memWrite (atI base 0x300#16) 0x300 0xC0#8) (flipPixel clearFb 0 1)) 0xD011).fb[0] = 0x1#64 ∧
    getV (after (setFb (memWrite (atI base 0x300#16) 0x300 0xC0#8) (flipPixel clearFb 0 1)) 0xD011) 0xF#4 = 0x01#8 ∧
    (after (setV (memWrite (atI base 0x300#16) 0x300 0x80#8) 0xF#4 0x0A#8) 0xDF11).fb[0] = 0x400#64 ∧
    getV (after (setV (memWrite (atI base 0x300#16) 0x300 0x80#8) 0xF#4 0x0A#8) 0xDF11) 0xF#4 = 0x00#8 := by decide

/-! ## Index register and memory -/

/-- M1. -/
theorem test_ld_i : (after base 0xA300).i = 0x300#16 := by decide

/-- M2 and M4. -/
theorem test_add_i : (after (setV (atI base 0x300#16) 0x2#4 0x10#8) 0xF21E).i = 0x310#16 ∧
    (after (setV (atI base 0xFF0#16) 0x0#4 0x20#8) 0xF01E).i = 0x010#16 := by decide

/-- M6 and M7. -/
theorem test_ld_f : (after (setV base 0x3#4 0x1A#8) 0xF329).i = 0x032#16 ∧
    (after (setV base 0x3#4 0x0F#8) 0xF329).i = 0x04B#16 := by decide

/-- L1.7. -/
theorem test_bcd : memRead (after (setV (atI base 0x300#16) 0x0#4 234#8) 0xF033) 0x300 = 2#8 ∧
    memRead (after (setV (atI base 0x300#16) 0x0#4 234#8) 0xF033) 0x301 = 3#8 ∧
    memRead (after (setV (atI base 0x300#16) 0x0#4 234#8) 0xF033) 0x302 = 4#8 := by decide

/-- M11: across the end of memory, over the font. -/
theorem test_bcd_wraps : memRead (after (setV (atI base 0xFFE#16) 0x0#4 123#8) 0xF033) 0xFFF = 2#8 ∧
    memRead (after (setV (atI base 0xFFE#16) 0x0#4 123#8) 0xF033) 0x000 = 3#8 := by decide

/-- M12 and M13. -/
theorem test_store_block : memRead (after (atI (regs2 0x0#4 1#8 0x2#4 3#8) 0x400#16) 0xF255) 0x402 = 3#8 ∧
    (after (atI (regs2 0x0#4 1#8 0x2#4 3#8) 0x400#16) 0xF255).i = 0x400#16 ∧
    memRead (after (atI (regs2 0x0#4 0x11#8 0x1#4 0x22#8) 0x400#16) 0xF055) 0x401 = 0#8 := by decide

/-- M18: the next fetch reads the bytes just stored. -/
theorem test_store_code :
    fetchWord (after (atI (regs2 0x0#4 0x60#8 0x1#4 0x07#8) 0x202#16) 0xF155) 0x202#16 = 0x6007#16 := by decide

/-- M16: the font's glyph 0. -/
theorem test_load_block : getV (after base 0xF465) 0x0#4 = 0xF0#8 ∧ getV (after base 0xF465) 0x4#4 = 0xF0#8 ∧
    getV (after base 0xF465) 0x1#4 = 0x90#8 ∧ getV (after base 0xF465) 0x5#4 = 0x00#8 := by decide

/-! ## Keys and timers -/

/-- K1 and K3. -/
theorem test_skp : (after (setKey (setV base 0x1#4 0x05#8) 0x5#4 true) 0xE19E).pc = 0x204#16 ∧
    (after (setKey (setV base 0x1#4 0x13#8) 0x3#4 true) 0xE19E).pc = 0x204#16 ∧
    (after (setV base 0x1#4 0x05#8) 0xE19E).pc = 0x202#16 := by decide

/-- K4 and K5. -/
theorem test_sknp : (after (setV base 0x1#4 0x05#8) 0xE1A1).pc = 0x204#16 ∧
    (after (setKey (setV base 0x1#4 0x05#8) 0x5#4 true) 0xE1A1).pc = 0x202#16 := by decide

/-- K7: DT is read before the tick of its own step. -/
theorem test_ld_dt_ticks : getV (afterAt (setDT base 0x2A#8) 0xF607 10) 0x6#4 = 0x2A#8 ∧
    (afterAt (setDT base 0x2A#8) 0xF607 10).dt = 0x29#8 := by decide

/-- K8 and K9. -/
theorem test_set_dt : (after (setV base 0x0#4 60#8) 0xF015).dt = 60#8 ∧
    (afterAt (setV base 0x0#4 5#8) 0xF015 10).dt = 4#8 := by decide

/-- K10. -/
theorem test_set_st : (after (setV base 0x0#4 0x10#8) 0xF018).st = 0x10#8 := by decide

/-- K11. -/
theorem test_ld_k : (after base 0xF50A).wait = some 0x5#4 ∧ (after base 0xF50A).pc = 0x202#16 ∧
    (after base 0xF50A).reply = .step .ok := by decide

/-! ## The host's operations -/

/-- R1: reset from Halted. -/
theorem test_reset_op : (hosted (after (underHalt base) 0x0000) (.reset 77)).lastTick = 77 ∧
    (hosted (after (underHalt base) 0x0000) (.reset 77)).halted = none ∧
    (hosted (after (underHalt base) 0x0000) (.reset 77)).pc = 0x200#16 := by decide

/-- A small load, and R5 before it: memory at 0x200 is zero after reset. -/
theorem test_load_program : memRead (hosted base (.loadProgram [0x22#8, 0x01#8])) 0x201 = 0x01#8 ∧
    (hosted base (.loadProgram [0x22#8])).reply = .loaded ∧ memRead base 0x200 = 0x00#8 := by decide

/-- R3: one byte too many. -/
theorem test_load_too_large (bytes : List Byte) (h : bytes.length = 3585) :
    (hosted base (.loadProgram bytes)).reply = .tooLarge ⟨.programTooLarge, 4, 3585⟩ := by
  simp [hosted, next, step, transition, nextOp, takeOp, perform, loadProgramOp, setReply, Config.programBase,
    Config.memSize, errorCode, h]

/-- R255 and R256. -/
theorem test_key_and_timers : keyPressed (hosted base (.setKey 0x7#4 true)) 0x7#4 = true ∧
    keyPressed (hosted base (.setKey 0x7#4 true)) 0x8#4 = false ∧
    (hosted (setST base 0x09#8) .soundTimer).reply = .timer 0x09#8 ∧
    (hosted (setDT base 0x08#8) .delayTimer).reply = .timer 0x08#8 := by decide

/-- The machine after its own reset runs the word placed for it, whatever the free inputs are. -/
theorem test_first_instruction : (next (State.reset.withFetchWord 16 0x1300)).pc = 0x300#16 := by decide

/-! ## Every hypothesis can be met: a state and operands for each statement that has one -/

theorem witness_DecodeOfEncode : (Instr.drw 0xF#4 0xF#4 0xF#4).wellFormed = true := by decide

theorem witness_EncodeOfDecode : decodeWord 0xFF65#16 = .ok (.ldVxMem 0xF#4) := by decide

theorem witness_TableRowsDisjoint : ∃ r ∈ opRows, 0x00E0#16 &&& r.mask = r.pat := by decide

theorem witness_StepRunsDecodedInstruction : Running (ready base 0x6A12 0 0x00#8) ∧
    StepsWith (ready base 0x6A12 0 0x00#8) 0 0x00#8 ∧
    decodeBytes [memRead (ready base 0x6A12 0 0x00#8) 0x200, memRead (ready base 0x6A12 0 0x00#8) 0x201]
      = .ok (.ldByte 0xA#4 0x12#8, []) ∧ (Instr.ldByte 0xA#4 0x12#8).wellFormed = true := by decide

theorem witness_UnrecognisedWordRaises : Running (ready base 0x9121 0 0x00#8) ∧
    StepsWith (ready base 0x9121 0 0x00#8) 0 0x00#8 ∧
    decodeWord (fetchWord (ready base 0x9121 0 0x00#8) 0x200#16) = .error (.unrecognised 0x9121#16) := by decide

/-- For ErrorStepChangesOnlyPc and ErrorReportNamesTheWord: a step that raises, under each policy. -/
theorem witness_ErrorSteps : Running (ready base 0x00EE 0 0x00#8) ∧ StepsWith (ready base 0x00EE 0 0x00#8) 0 0x00#8 ∧
    (∃ t, step (ready base 0x00EE 0 0x00#8) = .next t ∧ raised t = true ∧
      t.reply = .step (.error ⟨.stackUnderflow, 3, 0x00EE#16, 0x200#16⟩)) ∧
    Running (ready (underHalt base) 0x0000 0 0x00#8) ∧ StepsWith (ready (underHalt base) 0x0000 0 0x00#8) 0 0x00#8 ∧
    (∃ t, step (ready (underHalt base) 0x0000 0 0x00#8) = .next t ∧ raised t = true) :=
  ⟨by decide, by decide, ⟨_, rfl, by decide, by decide⟩, by decide, by decide, ⟨_, rfl, by decide⟩⟩

/-- For WaitingStepWithoutKey and WaitEndsOnlyByKeyOrReset. -/
theorem witness_Waiting : WaitingFor { setWait base (some 0xF#4) with inbox := [.step 7 0x00#8] } 0xF#4 ∧
    StepsWith { setWait base (some 0xF#4) with inbox := [.step 7 0x00#8] } 7 0x00#8 ∧
    (∀ k, keyPressed { setWait base (some 0xF#4) with inbox := [.step 7 0x00#8] } k = false) ∧
    (∀ now, nextOp { setWait base (some 0xF#4) with inbox := [.step 7 0x00#8] } ≠ .reset now) ∧
    ∃ t, step { setWait base (some 0xF#4) with inbox := [.step 7 0x00#8] } = .next t :=
  ⟨by decide, by decide, by decide, fun _ => by simp [nextOp], ⟨_, rfl⟩⟩

theorem witness_WaitingStepResolves :
    WaitingFor { setKey (setWait base (some 0x0#4)) 0xF#4 true with inbox := [.step 7 0x00#8] } 0x0#4 ∧
    StepsWith { setKey (setWait base (some 0x0#4)) 0xF#4 true with inbox := [.step 7 0x00#8] } 7 0x00#8 ∧
    keyPressed { setKey (setWait base (some 0x0#4)) 0xF#4 true with inbox := [.step 7 0x00#8] } 0xF#4 = true ∧
    (∀ j : Key, j.toNat < 15 →
      keyPressed { setKey (setWait base (some 0x0#4)) 0xF#4 true with inbox := [.step 7 0x00#8] } j = false) := by decide

/-- For HaltedStepChangesNothing and HaltedUntilReset. -/
theorem witness_Halted :
    ({ after (underHalt base) 0x0000 with inbox := [.step 7 0x00#8] } : State).halted =
      some ⟨.unknownOpcode, 1, 0x0000#16, 0x200#16⟩ ∧
    StepsWith { after (underHalt base) 0x0000 with inbox := [.step 7 0x00#8] } 7 0x00#8 ∧
    (∀ now, nextOp { after (underHalt base) 0x0000 with inbox := [.step 7 0x00#8] } ≠ .reset now) ∧
    ∃ t, step { after (underHalt base) 0x0000 with inbox := [.step 7 0x00#8] } = .next t :=
  ⟨by decide, by decide, fun _ => by simp [nextOp], ⟨_, rfl⟩⟩

/-- For TimerCheckTicks: a time at which the tick is just due, and one at which it is just not. -/
theorem witness_TimerCheckTicks : ((base.params.timeBaseHz : Nat) : Int) ≤ 60 * max 0 ((10 : Int) - (base.lastTick : Int)) ∧
    60 * max 0 ((9 : Int) - (base.lastTick : Int)) < ((base.params.timeBaseHz : Nat) : Int) := by decide

theorem witness_TickRateIsBounded : ∀ n ∈ [10, 20, 20, 30], 10 ≤ n ∧ n < 10 + 21 := by decide

/-- For MemoryAccess: an address above the memory falls on its last byte, and its neighbour on the first. -/
theorem witness_MemoryAccess : 0x1FFF % 4096 = 0xFFF % 4096 ∧ 0x1000 % 4096 ≠ 0xFFF % 4096 ∧
    memRead (memWrite base 0x1FFF 0x5A#8) 0xFFF = 0x5A#8 ∧
    memRead (memWrite base 0x1FFF 0x5A#8) 0x1000 = 0xF0#8 := by decide

/-- For TimerInstructionsThenTick, every clause. -/
theorem witness_TimerInstructionsThenTick : Running (ready base 0xF015 10 0x00#8) ∧
    StepsWith (ready base 0xF015 10 0x00#8) 10 0x00#8 ∧ (base.params.timeBaseHz : Nat) ≤ 60 * (10 - base.lastTick) ∧
    decodeWord (fetchWord (ready base 0xF015 10 0x00#8) 0x200#16) = .ok (.ldDTVx 0x0#4) ∧
    Running (ready base 0xF607 10 0x00#8) ∧ StepsWith (ready base 0xF607 10 0x00#8) 10 0x00#8 ∧
    decodeWord (fetchWord (ready base 0xF607 10 0x00#8) 0x200#16) = .ok (.ldVxDT 0x6#4) ∧
    Running (ready base 0xF018 10 0x00#8) ∧ StepsWith (ready base 0xF018 10 0x00#8) 10 0x00#8 ∧
    decodeWord (fetchWord (ready base 0xF018 10 0x00#8) 0x200#16) = .ok (.ldSTVx 0x0#4) := by decide

/-- For ResetOperation, SetKeyWritesOneFlag and HostReadsChangeNothing. -/
theorem witness_HostOps : nextOp { base with inbox := [.reset 5] } = .reset 5 ∧
    nextOp { base with inbox := [.setKey 0xF#4 true] } = .setKey 0xF#4 true ∧
    nextOp { base with inbox := [.readFramebuffer] } = .readFramebuffer ∧
    nextOp { base with inbox := [.delayTimer] } = .delayTimer ∧
    nextOp { base with inbox := [.soundTimer] } = .soundTimer := by decide

/-- R2: the longest program that fits. -/
theorem witness_LoadProgramInstalls :
    nextOp { base with inbox := [.loadProgram (List.replicate 3584 0x12#8)] } = .loadProgram (List.replicate 3584 0x12#8) ∧
    0x200 + (List.replicate 3584 0x12#8).length ≤ 0x1000 :=
  ⟨rfl, by rw [List.length_replicate]⟩

/-- R3: the shortest one that does not. -/
theorem witness_LoadProgramTooLarge :
    nextOp { base with inbox := [.loadProgram (List.replicate 3585 0x12#8)] } = .loadProgram (List.replicate 3585 0x12#8) ∧
    0x1000 < 0x200 + (List.replicate 3585 0x12#8).length :=
  ⟨rfl, by rw [List.length_replicate]; decide⟩

/-- For StepKeepsGoodStates and ParametersNeverChange: a good state with a written byte, a full stack and a next state. -/
theorem witness_GoodState : State.Inv (ready { base with stack := List.replicate 16 0x202#16, i := 0xFFF#16 } 0x2200 0 0x00#8) ∧
    ∃ t, step (ready { base with stack := List.replicate 16 0x202#16, i := 0xFFF#16 } 0x2200 0 0x00#8) = .next t :=
  ⟨by decide, ⟨_, rfl⟩⟩

/-- For UnnamedRegistersKeep, UnstoredBytesKeep, OtherStateKeeps, FramebufferIsUnreadable and SoundTimerIsUnreadable. -/
theorem witness_Frames : (∃ t, exec (.ldBVx 0x3#4) base = .next t) ∧ writesReg (.ldBVx 0x3#4) 0x3#4 = false ∧
    maskAddr 3 ∉ storedAddrs (.ldBVx 0x3#4) base ∧ Instr.ldBVx 0x3#4 ≠ .cls ∧
    (∀ x y n, Instr.ldBVx 0x3#4 ≠ .drw x y n) :=
  ⟨⟨_, rfl⟩, by decide, by decide, by decide, fun _ _ _ h => by cases h⟩

/-- For RetRule: both clauses. -/
theorem witness_RetRule : ({ base with stack := [0x206#16] } : State).stack = [0x206#16] ∧ base.stack = [] := by decide

/-- For CallRule: the deepest stack that takes a push, and the full one. -/
theorem witness_CallRule : ({ base with stack := List.replicate 15 0x202#16 } : State).stack.length < 16 ∧
    ({ base with stack := List.replicate 16 0x202#16 } : State).stack.length = 16 := by decide

/-- For SkipOnRegisterRule: the digits 1 and 15. -/
theorem witness_SkipOnRegisterRule : (0 < 1 ∧ 1 < 16) ∧ (0 < 15 ∧ 15 < 16) := by decide

/-- For RandomRule and KeyWaitRule: a Running state about to step over each word. -/
theorem witness_RandomAndKeyWait : Running (ready base 0xC40F 0 0xA7#8) ∧ StepsWith (ready base 0xC40F 0 0xA7#8) 0 0xA7#8 ∧
    decodeWord (fetchWord (ready base 0xC40F 0 0xA7#8) 0x200#16) = .ok (.rnd 0x4#4 0x0F#8) ∧
    Running (ready base 0xF50A 0 0x00#8) ∧ StepsWith (ready base 0xF50A 0 0x00#8) 0 0x00#8 ∧
    decodeWord (fetchWord (ready base 0xF50A 0 0x00#8) 0x200#16) = .ok (.ldVxK 0x5#4) := by decide

/-- For AddRegRule, SubtractRule and ShiftRule (a destination that is not VF), BlockStoreRule and BlockLoadRule (a register
on each side of the bound). -/
theorem witness_Operands : (0x0#4 : Reg) ≠ 0xF#4 ∧ (0xE#4 : Reg).toNat ≤ (0xE#4 : Reg).toNat ∧
    (0xE#4 : Reg).toNat < (0xF#4 : Reg).toNat := by decide

/-- For DrawRule: a pixel the sprite lands on that was 1, and one it does not land on. -/
theorem witness_DrawRule : Lands (memWrite (atI base 0x300#16) 0x300 0x80#8) 0x0#4 0x0#4 0x1#4 0 0 ∧
    ¬ Lands (memWrite (atI base 0x300#16) 0x300 0x80#8) 0x0#4 0x0#4 0x1#4 0 63 := by
  constructor
  · exact ⟨0, by decide, 0, by decide, by decide, by decide, by decide⟩
  · rintro ⟨r, hr, c, hc, _, _, h⟩
    have : (63 : Nat) = (0 + c) % 64 := h
    omega

theorem witness_DecimalStoreRule : maskAddr 0x303 ≠ maskAddr 0x300 ∧ maskAddr 0x303 ≠ maskAddr 0x301 ∧
    maskAddr 0x303 ≠ maskAddr 0x302 := by decide

/-- R282 (E2): a Running core at a jump to itself. -/
theorem witness_SelfJumpRepeats : AtSelfJump (ready base 0x1200 7 0x00#8) ∧ StepsWith (ready base 0x1200 7 0x00#8) 7 0x00#8 := by
  decide

theorem witness_StoredCodeIsFetched : 1 ≤ (0x1#4 : Reg).toNat ∧ ∃ t, exec (.ldMemVx 0x1#4) base = .next t :=
  ⟨by decide, ⟨_, rfl⟩⟩

end Sys2Proof.Tests
end

section
/-! SUPPORT. What the execute phase and a host operation can do, said once (`exec_effect`, `perform_effect`), and the
obligations on the state (`10_state.md`) derived from that. -/

namespace Sys2Proof.Machine

/-! ## Values after reset (R38) -/

/-- The state a reset leaves reads as the font and zeros at every address. -/
theorem memRead_resetTo (now : Nat) (p : Params) (b : Byte) (ops : List HostOp) (n : Nat) (r : Reply) (a : Nat) :
    memRead (State.resetTo now p b ops n r) a = Config.fontData.getD (a % 4096) 0x00#8 := by
  simp [memRead, State.resetTo, Memory.read, Memory.unlisted, Config.fontBase, maskAddr, Config.memSize]

/-- Every register is zero after a reset. -/
theorem getV_resetTo (now : Nat) (p : Params) (b : Byte) (ops : List HostOp) (n : Nat) (r : Reply) (x : Reg) :
    getV (State.resetTo now p b ops n r) x = 0x00#8 := by
  simp [getV, State.resetTo]

/-- No key is pressed after a reset. -/
theorem keyPressed_resetTo (now : Nat) (p : Params) (b : Byte) (ops : List HostOp) (n : Nat) (r : Reply) (k : Key) :
    keyPressed (State.resetTo now p b ops n r) k = false := by
  simp [keyPressed, State.resetTo]

/-- A reset leaves a good state. -/
theorem resetTo_inv (now : Nat) (p : Params) (b : Byte) (ops : List HostOp) (n : Nat) (r : Reply) :
    (State.resetTo now p b ops n r).Inv :=
  ⟨rfl, Nat.zero_le 16, Nat.zero_lt_succ 4095, .inl rfl⟩

/-! ## The execute phase -/

/-- The instructions that load `I` (R190 to R192). -/
def LoadsIndex (i : Instr) : Prop := (∃ a, i = .ldI a) ∨ (∃ x, i = .addIVx x) ∨ (∃ x, i = .ldFVx x)

/-- The two jumps (R122, R128). -/
def IsJump (i : Instr) : Prop := (∃ a, i = .jp a) ∨ (∃ a, i = .jpV0 a)

/-- The six conditional skips (R124 to R127, R211, R212). -/
def IsSkip (i : Instr) : Prop :=
  (∃ x k, i = .seByte x k) ∨ (∃ x k, i = .sneByte x k) ∨ (∃ x y, i = .seReg x y) ∨ (∃ x y, i = .sneReg x y) ∨
    (∃ x, i = .skp x) ∨ (∃ x, i = .sknp x)

/-- What the execute phase of `i` can make of `s`: one constructor for each kind of write, with the instructions that do
it and what is known of the values written. -/
inductive ExecEffect (i : Instr) (s : State) : State → Prop where
  /-- Registers that `i` names are written. -/
  | registers (v : Vector Byte 16) (hv : ∀ r, writesReg i r = false → getV { s with v := v } r = getV s r) :
      ExecEffect i s { s with v := v }
  /-- Bytes are stored, and canonical memory stays canonical. -/
  | memory (m : Memory) (hm : Memory.wf s.mem = true → Memory.wf m = true) : ExecEffect i s { s with mem := m }
  /-- `I` takes a value below 0x1000. -/
  | index (w : Word) (hi : LoadsIndex i) (hw : w.toNat < 4096) : ExecEffect i s (setI s w)
  | jump (target : Word) (hi : IsJump i) : ExecEffect i s (setPc s target)
  | skip (c : Bool) (hi : IsSkip i) : ExecEffect i s (skipIf s c)
  /-- CALL with room on the stack. -/
  | call (nnn : Addr) (hi : i = .call nnn) (hs : s.stack.length < Config.stackDepth) :
      ExecEffect i s (setPc { s with stack := s.pc :: s.stack } (addrWord nnn))
  /-- RET with a saved `pc`. -/
  | ret (target : Word) (rest : List Word) (hi : i = .ret) (hs : s.stack = target :: rest) :
      ExecEffect i s (setPc { s with stack := rest } target)
  /-- CALL on a full stack or RET on an empty one. -/
  | error (k : ErrorKind) (w : Word) (hi : i = .ret ∨ ∃ a, i = .call a) : ExecEffect i s (raiseError s k w)
  | delayTimer (x : Reg) (hi : i = .ldDTVx x) : ExecEffect i s (setDT s (getV s x))
  | soundTimer (x : Reg) (hi : i = .ldSTVx x) : ExecEffect i s (setST s (getV s x))
  | clear (hi : i = .cls) : ExecEffect i s (setFb s clearFb)
  /-- The drawing, with VF the collision flag. -/
  | draw (x y : Reg) (n : RowCount) (hi : i = .drw x y n) (fb : Framebuffer) (flag : Bool) :
      ExecEffect i s (setFlag (setFb s fb) flag)
  | keyWait (x : Reg) (hi : i = .ldVxK x) : ExecEffect i s (setWait s (some x))

/-- A write of one register that `i` names. -/
theorem ExecEffect.ofSetV {i : Instr} {s : State} (x : Reg) (w : Byte) (hx : ∀ r, writesReg i r = false → r ≠ x) :
    ExecEffect i s (setV s x w) :=
  .registers (setV s x w).v fun r hr => (getV_setV s x r w).trans (if_neg (hx r hr))

/-- A write of a register that `i` names and of VF, which `i` also writes. -/
theorem ExecEffect.ofSetVFlag {i : Instr} {s : State} (x : Reg) (w : Byte) (flag : Bool)
    (hx : ∀ r, writesReg i r = false → r ≠ x ∧ r ≠ regF) : ExecEffect i s (setVFlag s x w flag) :=
  .registers (setVFlag s x w flag).v fun r hr => by
    obtain ⟨hrx, hrf⟩ := hx r hr
    exact (getV_setVFlag s x r w flag).trans (by rw [if_neg hrf, if_neg hrx])

/-- A block of stores. -/
theorem ExecEffect.ofStoreBytes {i : Instr} {s : State} (base : Nat) (ws : List Byte) :
    ExecEffect i s (storeBytes base ws s) := by
  rw [storeBytes_frame]
  exact .memory _ (storeBytes_wf ws base s)

/-- LD Vx,[I] writes V0 to Vx and no register above. -/
theorem ExecEffect.ofLoadRegs {s : State} (x : Reg) (base : Nat) :
    ExecEffect (.ldVxMem x) s (loadRegs base (x.toNat + 1) s) := by
  have hframe := loadRegs_frame base (x.toNat + 1) s
  rw [hframe]
  refine .registers _ fun r hr => ?_
  have hlt : ¬ r.toNat < x.toNat + 1 := by simpa [writesReg, Nat.lt_succ_iff] using hr
  rw [← hframe, getV_loadRegs base _ s r x.isLt, if_neg hlt]

/-- What LD I loads is below 0x1000 (R27). -/
theorem addrWord_lt (nnn : Addr) : (addrWord nnn).toNat < 4096 := by
  have := nnn.isLt
  simp only [addrWord, BitVec.toNat_setWidth]
  omega

/-- What ADD I leaves is below 0x1000 (R27, R191). -/
theorem indexPlus_lt (s : State) (x : Reg) : (indexPlus s x).toNat < 4096 := by
  simp only [indexPlus, BitVec.toNat_ofNat, Config.memSize]
  omega

/-- A glyph's address is below 0x1000 (R27, R192). -/
theorem glyphAddr_lt (s : State) (x : Reg) : (glyphAddr s x).toNat < 4096 := by
  simp only [glyphAddr, BitVec.toNat_ofNat, Config.fontBase, Config.glyphBytes]
  exact Nat.lt_of_le_of_lt (Nat.mod_le _ _) (by omega)

/-- Every answer of the execute phase is one of the listed effects. -/
theorem exec_effect {i : Instr} {s t : State} (h : exec i s = .next t) : ExecEffect i s t := by
  cases i with
  | ldByte x _ | addByte x _ | ldReg x _ | orReg x _ | andReg x _ | xorReg x _ | rnd x _ | ldVxDT x =>
    cases h
    exact .ofSetV x _ (by simp [writesReg])
  | addReg x _ | subReg x _ | shr x _ | subnReg x _ | shl x _ =>
    cases h
    exact .ofSetVFlag x _ _ (by simp [writesReg, regF])
  | ldVxMem x =>
    cases h
    exact .ofLoadRegs x _
  | ldBVx _ | ldMemVx _ =>
    cases h
    exact .ofStoreBytes _ _
  | ldI nnn =>
    cases h
    exact .index _ (.inl ⟨nnn, rfl⟩) (addrWord_lt nnn)
  | addIVx x =>
    cases h
    exact .index _ (.inr (.inl ⟨x, rfl⟩)) (indexPlus_lt s x)
  | ldFVx x =>
    cases h
    exact .index _ (.inr (.inr ⟨x, rfl⟩)) (glyphAddr_lt s x)
  | jp _ | jpV0 _ =>
    cases h
    exact .jump _ (by simp [IsJump])
  | seByte _ _ | sneByte _ _ | seReg _ _ | sneReg _ _ | skp _ | sknp _ =>
    cases h
    exact .skip _ (by simp [IsSkip])
  | call nnn =>
    simp only [exec, execCall] at h
    obtain ⟨hlen, hpush⟩ | ⟨-, hpush⟩ := push_cases s s.pc <;> rw [hpush] at h <;> cases h
    · exact .call nnn rfl hlen
    · exact .error _ _ (.inr ⟨nnn, rfl⟩)
  | ret =>
    simp only [exec, execRet] at h
    obtain ⟨target, rest, hs, hpop⟩ | ⟨-, hpop⟩ := pop_cases s <;> rw [hpop] at h <;> cases h
    · exact .ret target rest rfl hs
    · exact .error _ _ (.inl rfl)
  | ldDTVx x =>
    cases h
    exact .delayTimer x rfl
  | ldSTVx x =>
    cases h
    exact .soundTimer x rfl
  | cls =>
    cases h
    exact .clear rfl
  | drw x y n =>
    cases h
    exact .draw x y n rfl _ _
  | ldVxK x =>
    cases h
    exact .keyWait x rfl

/-- The execute phase writes no parameter (R37). -/
theorem exec_params {i : Instr} {s t : State} (h : exec i s = .next t) : t.params = s.params := by
  cases exec_effect h <;> rfl

/-- In the Running state the execute phase keeps a good state good. -/
theorem exec_inv {i : Instr} {s t : State} (h : exec i s = .next t) (hr : Running s) (hs : s.Inv) : t.Inv := by
  obtain ⟨hwait, hhalted⟩ := hr
  obtain ⟨hmem, hstack, hindex, hone⟩ := hs
  cases exec_effect h with
  | memory m hm => exact ⟨hm hmem, hstack, hindex, hone⟩
  | index w _ hw => exact ⟨hmem, hstack, hw, hone⟩
  | call nnn _ hlen => exact ⟨hmem, hlen, hindex, hone⟩
  | ret target rest _ hrest =>
    rw [hrest] at hstack
    exact ⟨hmem, Nat.le_of_succ_le hstack, hindex, hone⟩
  | error k w _ => exact ⟨hmem, hstack, hindex, .inl hwait⟩
  | keyWait x _ => exact ⟨hmem, hstack, hindex, .inr hhalted⟩
  | registers | jump | skip | delayTimer | soundTimer | clear | draw => exact ⟨hmem, hstack, hindex, hone⟩

/-! ## The host's operations -/

/-- What performing a host operation can make of `s`, with the guard of each case. -/
inductive OpEffect (s : State) : HostOp → State → Prop where
  | reset (now : Nat) : OpEffect s (.reset now) (resetOp now s)
  | load (bytes : List Byte) (hfit : Config.programBase + bytes.length ≤ Config.memSize) :
      OpEffect s (.loadProgram bytes) (setReply (storeBytes Config.programBase bytes s) .loaded)
  | loadTooLarge (bytes : List Byte) (hbig : Config.memSize < Config.programBase + bytes.length) :
      OpEffect s (.loadProgram bytes)
        (setReply s (.tooLarge ⟨.programTooLarge, errorCode .programTooLarge, bytes.length⟩))
  | readFramebuffer : OpEffect s .readFramebuffer (setReply s (.snapshot s.fb))
  | setKey (k : Key) (p : Bool) : OpEffect s (.setKey k p) (setReply (setKey s k p) .none)
  | delayTimer : OpEffect s .delayTimer (setReply s (.timer s.dt))
  | soundTimer : OpEffect s .soundTimer (setReply s (.timer s.st))
  | stepHalted (now : Nat) (rand : Byte) (info : StepReport) (hh : s.halted = some info) :
      OpEffect s (.step now rand) (haltedStep info s)
  | stepWaiting (now : Nat) (rand : Byte) (x : Reg) (hx : WaitingFor s x) (hk : leastKey s = none) :
      OpEffect s (.step now rand) (setReply (timerCheck s now) (.step .waiting))
  | stepResolved (now : Nat) (rand : Byte) (x : Reg) (k : Key) (hx : WaitingFor s x) (hk : leastKey s = some k) :
      OpEffect s (.step now rand)
        (setReply (timerCheck (setWait (setV s x (k.setWidth 8)) none) now) (.step (.keyResolved k)))
  | stepUnknown (now : Nat) (rand : Byte) (e : DecodeError) (hr : Running s)
      (hd : decodeWord (fetchWord s s.pc) = .error e) :
      OpEffect s (.step now rand) (raiseError (executeEntry s rand) .unknownOpcode (fetchWord s s.pc))
  | stepExecuted (now : Nat) (rand : Byte) (i : Instr) (u : State) (hr : Running s)
      (hd : decodeWord (fetchWord s s.pc) = .ok i) (hu : exec i (executeEntry s rand) = .next u) :
      OpEffect s (.step now rand) (afterExecute now u)

/-- A step in Waiting(x) finds no key pressed, or resolves the wait with the least one (R109, R110). -/
theorem waitingStep_effect {s : State} {x : Reg} (now : Nat) (rand : Byte) (hx : WaitingFor s x) :
    OpEffect s (.step now rand) (waitingStep x now s) := by
  cases hk : leastKey s with
  | none => simpa [waitingStep, hk] using OpEffect.stepWaiting now rand x hx hk
  | some k => simpa [waitingStep, hk] using OpEffect.stepResolved now rand x k hx hk

/-- A step in the Running state raises UnknownOpcode or executes (R101 to R107). -/
theorem runningStep_effect {s t : State} {now : Nat} {rand : Byte} (hr : Running s)
    (h : runningStep now rand s = .next t) : OpEffect s (.step now rand) t := by
  unfold runningStep at h
  cases hd : decodeWord (fetchWord s s.pc) with
  | error e =>
    rw [hd] at h
    cases h
    exact .stepUnknown now rand e hr hd
  | ok i =>
    cases hu : exec i (executeEntry s rand) with
    | next u =>
      simp only [hd, hu] at h
      cases h
      exact .stepExecuted now rand i u hr hd hu
    | fault r => cases r
    | refused r => simp [hd, hu] at h

/-- A step, by run state (R112, R109, R101). -/
theorem stepOp_effect {s t : State} {now : Nat} {rand : Byte} (h : stepOp now rand s = .next t) :
    OpEffect s (.step now rand) t := by
  cases hh : s.halted with
  | some info =>
    rw [stepOp_halted s now rand info hh] at h
    cases h
    exact .stepHalted now rand info hh
  | none =>
    cases hw : s.wait with
    | some x =>
      rw [stepOp_waiting s now rand x hh hw] at h
      cases h
      exact waitingStep_effect now rand ⟨hw, hh⟩
    | none =>
      rw [stepOp_running s now rand hh hw] at h
      exact runningStep_effect ⟨hw, hh⟩ h

/-- `load_program` stores the whole program or nothing (R273, R274). -/
theorem loadProgramOp_effect (s : State) (bytes : List Byte) :
    OpEffect s (.loadProgram bytes) (loadProgramOp bytes s) := by
  unfold loadProgramOp
  split
  · exact .load bytes ‹_›
  · exact .loadTooLarge bytes (Nat.lt_of_not_le ‹_›)

/-- Every answer of a host operation is one of the listed effects. -/
theorem perform_effect {op : HostOp} {s t : State} (h : perform op s = .next t) : OpEffect s op t := by
  cases op with
  | step now rand => exact stepOp_effect h
  | reset now => cases h; exact .reset now
  | loadProgram bytes => cases h; exact loadProgramOp_effect s bytes
  | readFramebuffer => cases h; exact .readFramebuffer
  | setKey k p => cases h; exact .setKey k p
  | delayTimer => cases h; exact .delayTimer
  | soundTimer => cases h; exact .soundTimer

/-- What one step of the machine can do: the effect of the host's next operation. -/
theorem step_effect {s t : State} (h : step s = .next t) : OpEffect (takeOp s) (nextOp s) t := perform_effect h

/-- What follows a successful execute phase is the timer check, which keeps a good state good. -/
theorem afterExecute_inv {now : Nat} {s : State} (hs : s.Inv) : (afterExecute now s).Inv := by
  unfold afterExecute
  split <;> exact hs

theorem afterExecute_params (now : Nat) (s : State) : (afterExecute now s).params = s.params := by
  unfold afterExecute
  split <;> rfl

/-- A host operation keeps a good state good. -/
theorem OpEffect.inv {op : HostOp} {s t : State} (h : OpEffect s op t) (hs : s.Inv) : t.Inv := by
  obtain ⟨hmem, hstack, hindex, hone⟩ := id hs
  cases h with
  | reset now => exact resetTo_inv ..
  | load bytes _ =>
    rw [storeBytes_frame]
    exact ⟨storeBytes_wf bytes _ s hmem, hstack, hindex, hone⟩
  | stepResolved => exact ⟨hmem, hstack, hindex, .inl rfl⟩
  | stepUnknown _ _ _ hr _ => exact ⟨hmem, hstack, hindex, .inl hr.1⟩
  | stepExecuted _ _ _ _ hr _ hu => exact afterExecute_inv (exec_inv hu hr hs)
  | loadTooLarge | readFramebuffer | setKey | delayTimer | soundTimer | stepHalted | stepWaiting => exact hs

/-- A host operation writes no parameter (R37). -/
theorem OpEffect.params {op : HostOp} {s t : State} (h : OpEffect s op t) : t.params = s.params := by
  cases h with
  | load bytes => rw [setReply_params, storeBytes_frame]
  | stepExecuted now _ _ u _ _ hu =>
    rw [afterExecute_params, exec_params hu]
    rfl
  | reset | loadTooLarge | readFramebuffer | setKey | delayTimer | soundTimer | stepHalted | stepWaiting
  | stepResolved | stepUnknown => rfl

/-! ## The framebuffer and the sound timer are outputs -/

/-- The state with its two outputs, the framebuffer and the sound timer, replaced. -/
def State.withOutputs (s : State) (fb : Framebuffer) (st : Byte) : State := { s with fb := fb, st := st }

/-- `Push` passes the outputs on. -/
theorem push_withOutputs (s : State) (w : Word) (fb : Framebuffer) (st : Byte) :
    push (s.withOutputs fb st) w = (push s w).map (State.withOutputs · fb st) := by
  rw [push, push, apply_ite (Except.map (State.withOutputs · fb st))]
  rfl

/-- `Pop` passes the outputs on. -/
theorem pop_withOutputs (s : State) (fb : Framebuffer) (st : Byte) :
    pop (s.withOutputs fb st) = (pop s).map fun p => (p.1, p.2.withOutputs fb st) := by
  rw [pop, pop, State.withOutputs]
  cases s.stack <;> rfl

/-- A block of stores passes the outputs on. -/
theorem storeBytes_withOutputs (base : Nat) (ws : List Byte) (s : State) (fb : Framebuffer) (st : Byte) :
    storeBytes base ws (s.withOutputs fb st) = (storeBytes base ws s).withOutputs fb st := by
  induction ws generalizing base s with
  | nil => rfl
  | cons w ws ih => exact ih (base + 1) (memWrite s base w)

/-- A block of bytes read does not depend on the outputs. -/
theorem loadBytes_withOutputs (base n : Nat) (s : State) (fb : Framebuffer) (st : Byte) :
    loadBytes (s.withOutputs fb st) base n = loadBytes s base n := by
  induction n generalizing base with
  | zero => rfl
  | succ n ih => exact congrArg (memRead s base :: ·) (ih (base + 1))

/-- A block of registers loaded passes the outputs on. -/
theorem loadRegs_withOutputs (base n : Nat) (s : State) (fb : Framebuffer) (st : Byte) :
    loadRegs base n (s.withOutputs fb st) = (loadRegs base n s).withOutputs fb st := by
  induction n with
  | zero => rfl
  | succ n ih => rw [loadRegs, ih]; rfl

/-- The sprite DRW draws does not depend on the outputs. -/
theorem spriteOf_withOutputs (s : State) (x y : Reg) (n : RowCount) (fb : Framebuffer) (st : Byte) :
    spriteOf (s.withOutputs fb st) x y n = spriteOf s x y n :=
  congrArg (spritePixels (getV s x).toNat (getV s y).toNat) (loadBytes_withOutputs ..)

/-- An instruction that writes neither output passes both on and is blind to them. -/
theorem exec_withOutputs {i : Instr} {s t : State} (fb : Framebuffer) (st : Byte) (hcls : i ≠ .cls)
    (hdrw : ∀ x y n, i ≠ .drw x y n) (hst : ∀ x, i ≠ .ldSTVx x) (h : exec i s = .next t) :
    exec i (s.withOutputs fb st) = .next (t.withOutputs fb st) := by
  cases i with
  | cls => exact absurd rfl hcls
  | drw x y n => exact absurd rfl (hdrw x y n)
  | ldSTVx x => exact absurd rfl (hst x)
  | ldBVx x =>
    cases h
    exact congrArg Host.Outcome.next (storeBytes_withOutputs ..)
  | ldMemVx x =>
    cases h
    exact congrArg Host.Outcome.next (storeBytes_withOutputs ..)
  | ldVxMem x =>
    cases h
    exact congrArg Host.Outcome.next (loadRegs_withOutputs ..)
  | call nnn =>
    simp only [exec, execCall, push_withOutputs, show (s.withOutputs fb st).pc = s.pc from rfl] at h ⊢
    cases hp : push s s.pc <;> rw [hp] at h <;> cases h <;> rfl
  | ret =>
    simp only [exec, execRet, pop_withOutputs] at h ⊢
    cases hp : pop s <;> rw [hp] at h <;> cases h <;> rfl
  | _ =>
    cases h
    rfl

end Sys2Proof.Machine

/-! ## The obligations -/

namespace Sys2Proof.Proofs

open Sys2Proof.Machine

/-- Settles O27: each effect of a host operation keeps the four parts of a good state. -/
theorem stepKeepsGoodStates : Obligations.StepKeepsGoodStates :=
  fun _ _ hs h => (step_effect h).inv hs

/-- Settles O19: the operation is `resetOp`, whose state has the values of R38. -/
theorem resetOperation : Obligations.ResetOperation := by
  intro s now hop
  refine ⟨resetOp now (takeOp s), ?_, memRead_resetTo _ _ _ _ _ _, getV_resetTo _ _ _ _ _ _, rfl, rfl, rfl, rfl, rfl,
    rfl, pixel_clearFb, keyPressed_resetTo _ _ _ _ _ _, ⟨rfl, rfl⟩, rfl⟩
  rw [step, transition, hop, perform]

/-- Settles O30: no effect of a host operation writes a parameter. -/
theorem parametersNeverChange : Obligations.ParametersNeverChange :=
  fun _ _ h => (step_effect h).params

/-- Settles O31: only the register effects and DRW's flag write a register, and they name it. -/
theorem unnamedRegistersKeep : Obligations.UnnamedRegistersKeep := by
  intro i s t r h hr
  cases exec_effect h with
  | registers v hv => exact hv r hr
  | draw x y n hi fb flag =>
    subst hi
    have hne : r ≠ regF := by simpa [writesReg, regF] using hr
    exact (getV_setFlag _ r flag).trans (if_neg hne)
  | memory | index | jump | skip | call | ret | error | delayTimer | soundTimer | clear | keyWait => rfl

/-- Settles O33: each effect changes only the pieces of state it names. -/
theorem otherStateKeeps : Obligations.OtherStateKeeps := by
  intro i s t h
  cases exec_effect h with
  | registers | memory => simp
  | index w hi => obtain ⟨_, rfl⟩ | ⟨_, rfl⟩ | ⟨_, rfl⟩ := hi <;> simp
  | jump target hi => obtain ⟨_, rfl⟩ | ⟨_, rfl⟩ := hi <;> simp
  | skip c hi =>
    cases c with
    | false => simp
    | true => simpa using .inr (.inr (.inr (.inr hi)))
  | call nnn hi => simp [hi]
  | ret target rest hi => simp [hi]
  | error k w hi => simpa using fun _ => hi
  | delayTimer x hi => simp [hi]
  | soundTimer x hi => simp [hi]
  | clear hi => simp [hi]
  | draw x y n hi => simp [hi]
  | keyWait x hi => simp [hi]

/-- Settles O34: LD ST passes the framebuffer on, and the other instructions pass both outputs on. -/
theorem framebufferIsUnreadable : Obligations.FramebufferIsUnreadable := by
  intro i s t fb hcls hdrw h
  by_cases hi : ∃ x, i = .ldSTVx x
  · obtain ⟨x, rfl⟩ := hi
    cases h
    rfl
  · obtain ⟨-, -, -, -, hst, -⟩ := otherStateKeeps i s t h
    have hst : t.st = s.st := by_contra fun hne => hi (hst hne)
    have hrun := exec_withOutputs fb s.st hcls hdrw (fun x hx => hi ⟨x, hx⟩) h
    simpa only [State.withOutputs, hst] using hrun

/-- Settles O35: CLS, DRW and LD ST one by one; the other instructions pass both outputs on. -/
theorem soundTimerIsUnreadable : Obligations.SoundTimerIsUnreadable := by
  intro i s t b h
  by_cases hi : (i = .cls ∨ ∃ x y n, i = .drw x y n) ∨ ∃ x, i = .ldSTVx x
  · obtain (rfl | ⟨x, y, n, rfl⟩) | ⟨x, rfl⟩ := hi
    · cases h
      exact ⟨_, rfl, rfl⟩
    · cases h
      have hsprite : spriteOf { s with st := b } x y n = spriteOf s x y n := spriteOf_withOutputs s x y n s.fb b
      exact ⟨_, rfl, by rw [hsprite]; rfl⟩
    · cases h
      exact ⟨_, rfl, rfl⟩
  · simp only [not_or, not_exists] at hi
    obtain ⟨⟨hcls, hdrw⟩, hst⟩ := hi
    obtain ⟨-, -, -, -, -, hfb, -⟩ := otherStateKeeps i s t h
    have hfb : t.fb = s.fb := by_contra fun hne => (hfb hne).elim hcls fun ⟨x, y, n, hx⟩ => hdrw x y n hx
    exact ⟨_, exec_withOutputs s.fb b hcls hdrw hst h, by rw [State.withOutputs, hfb]⟩

/-- Settles O20: the values of R38, read off the reset state. -/
theorem resetStateValues : Obligations.ResetStateValues :=
  ⟨memRead_resetTo _ _ _ _ _ _, getV_resetTo _ _ _ _ _ _, rfl, rfl, rfl, rfl, rfl, rfl, pixel_clearFb,
    keyPressed_resetTo _ _ _ _ _ _, rfl, rfl⟩

/-- Settles O28: a reset leaves a good state. -/
theorem resetIsGood : Obligations.ResetIsGood := resetTo_inv _ _ _ _ _ _

end Sys2Proof.Proofs
end

section
/-! SUPPORT. What the execute phase stores, said once (`exec_mem`), what a fetch reads (`fetchWord_toNat`), and the
obligations on memory (`20_memory.md`) derived from that. -/

namespace Sys2Proof.Machine

/-! ## Fetching -/

/-- The number of a word of two bytes, high byte first (R56). -/
theorem wordOfBytes_toNat (hi lo : Byte) : (wordOfBytes hi lo).toNat = 0x100 * hi.toNat + lo.toNat :=
  (toNat_append_eq hi lo).trans (by omega)

/-- The number of the word fetched at an address (R54). -/
theorem fetchWord_toNat (s : State) (a : Word) :
    (fetchWord s a).toNat = 0x100 * (memRead s a.toNat).toNat + (memRead s (a.toNat + 1)).toNat :=
  wordOfBytes_toNat ..

/-! ## What the execute phase stores (R53, R58) -/

/-- The bytes that the instruction stores from the address in `I` on, in increasing order. -/
def storedBytes (i : Instr) (s : State) : List Byte :=
  match i with
  | .ldBVx x => decimalDigits (getV s x)
  | .ldMemVx x => firstRegs s (x.toNat + 1)
  | _ => []

/-- One address is stored to for each stored byte. -/
theorem storedAddrs_eq_map (i : Instr) (s : State) :
    storedAddrs i s = (List.range (storedBytes i s).length).map fun k => maskAddr (indexAddr s + k) := by
  cases i with
  | ldMemVx x => simp only [storedAddrs, storedBytes, firstRegs_length]
  | _ => rfl

/-- Memory after the execute phase is memory with the stored bytes written as one block. -/
theorem exec_mem {i : Instr} {s t : State} (h : exec i s = .next t) :
    t.mem = (storeBytes (indexAddr s) (storedBytes i s) s).mem := by
  cases i with
  | call nnn =>
    simp only [exec, execCall] at h
    obtain ⟨-, hpush⟩ | ⟨-, hpush⟩ := push_cases s s.pc <;> rw [hpush] at h <;> cases h <;> rfl
  | ret =>
    simp only [exec, execRet] at h
    obtain ⟨_, _, -, hpop⟩ | ⟨-, hpop⟩ := pop_cases s <;> rw [hpop] at h <;> cases h <;> rfl
  | ldVxMem x =>
    cases h
    rw [loadRegs_frame]
    rfl
  | _ =>
    cases h
    rfl

/-- Reads after the execute phase are reads of that block. -/
theorem memRead_exec {i : Instr} {s t : State} (h : exec i s = .next t) (a : Nat) :
    memRead t a = memRead (storeBytes (indexAddr s) (storedBytes i s) s) a := by
  rw [memRead, memRead, exec_mem h]

/-- After LD [I],Vx the byte at `I + k` is that of register `k`, up to `x` (R194). -/
theorem memRead_exec_ldMemVx {x : Reg} {s t : State} (h : exec (.ldMemVx x) s = .next t) {k : Nat} (hk : k ≤ x.toNat) :
    memRead t (indexAddr s + k) = getV s (BitVec.ofNat 4 k) := by
  have hlen : (firstRegs s (x.toNat + 1)).length = x.toNat + 1 := firstRegs_length s _
  have hx : x.toNat < 16 := x.isLt
  have hfits : (firstRegs s (x.toNat + 1)).length ≤ Config.memSize := by
    rw [hlen]
    exact Nat.le_trans hx (by decide)
  rw [memRead_exec h, storedBytes, memRead_storeBytes_inside _ _ s k (by omega) hfits, firstRegs_get]

end Sys2Proof.Machine

/-! ## The obligations -/

namespace Sys2Proof.Proofs

open Sys2Proof.Machine

/-- Settles O8: the fetched word is the word of the two bytes read. -/
theorem fetchWordIsBigEndian : Obligations.FetchWordIsBigEndian := fetchWord_toNat

/-- Settles O32: an address not stored to lies outside the block of stored bytes. -/
theorem unstoredBytesKeep : Obligations.UnstoredBytesKeep := by
  intro i s t a h ha
  rw [storedAddrs_eq_map] at ha
  rw [memRead_exec h]
  refine memRead_storeBytes_outside _ _ s a fun k hk heq => ha ?_
  exact List.mem_map.2 ⟨k, List.mem_range.2 hk, heq.symm⟩

/-- Settles O57: the two bytes fetched are the first two of the block, V0 and V1. -/
theorem storedCodeIsFetched : Obligations.StoredCodeIsFetched := by
  intro x s t hx h
  have h0 : memRead t s.i.toNat = getV s 0x0#4 := memRead_exec_ldMemVx h (Nat.zero_le _)
  have h1 : memRead t (s.i.toNat + 1) = getV s 0x1#4 := memRead_exec_ldMemVx h hx
  rw [fetchWord_toNat, h0, h1]

/-- Settles O52: a write is read back exactly at the addresses equal to its own modulo 4096. -/
theorem memoryAccess : Obligations.MemoryAccess := by
  intro s addr w
  refine ⟨rfl, fun b hb => ?_, fun b hb => ?_, rfl⟩
  · exact (memRead_memWrite s addr b w).trans (if_pos hb)
  · exact (memRead_memWrite s addr b w).trans (if_neg hb)

end Sys2Proof.Proofs
end

section
/-! SUPPORT. The opcode map in its three forms, held against each other: the decoder inverts the encoder
(`decodeWord_encode`, `encode_of_decodeWord`), the digits of the words it refuses (`decodeWord_unrecognised_iff`), and the
digits the table's rows fix (`not_admitted_of_refused`). The obligations of `30_encoding.md` are derived from that. -/

namespace Sys2Proof

/-! ## Decoding an encoding (R74) -/

/-- The last arm of the decoder is op F. -/
theorem decodeWord_opF {w : Word} (hop : fieldOp w = 0xF#4) : decodeWord w = decodeOpF w := by
  rw [decodeWord, hop]
  rfl

/-- The decoder reads every instruction back from its word; the cases are the formats of R72. -/
@[simp] theorem decodeWord_encode (i : Instr) : decodeWord (encode i) = .ok i := by
  cases i with
  | cls | ret => rfl
  | jp nnn | call nnn | ldI nnn | jpV0 nnn =>
    simp only [encode, decodeWord, fieldOp_wordNNN, fieldNNN_wordNNN]
  | seByte x kk | sneByte x kk | ldByte x kk | addByte x kk | rnd x kk =>
    simp only [encode, decodeWord, fieldOp_wordXKK, fieldX_wordXKK, fieldKK_wordXKK]
  | seReg x y | sneReg x y | drw x y n =>
    simp only [encode, decodeWord, fieldOp_wordXYN, fieldX_wordXYN, fieldY_wordXYN, fieldN_wordXYN, if_true]
  | ldReg x y | orReg x y | andReg x y | xorReg x y | addReg x y | subReg x y | shr x y | subnReg x y | shl x y =>
    simp only [encode, decodeWord, decodeOp8, fieldOp_wordXYN, fieldX_wordXYN, fieldY_wordXYN, fieldN_wordXYN]
  | skp x | sknp x =>
    simp only [encode, decodeWord, decodeOpE, fieldOp_wordXKK, fieldX_wordXKK, fieldKK_wordXKK]
  | ldVxDT x | ldVxK x | ldDTVx x | ldSTVx x | addIVx x | ldFVx x | ldBVx x | ldMemVx x | ldVxMem x =>
    rw [encode, decodeWord_opF (fieldOp_wordXKK ..)]
    simp only [decodeOpF, fieldX_wordXKK, fieldKK_wordXKK]

/-- The decoder reads every instruction back from its two bytes and leaves the bytes that follow (R70). -/
theorem decodeBytes_encodeBytes (i : Instr) (rest : List Byte) :
    decodeBytes (encodeBytes i ++ rest) = .ok (i, rest) := by
  simp [encodeBytes, decodeBytes]

/-! ## Encoding what was decoded (R75)

A word is put together again from the fields that the decoder looked at. -/

/-- A word of format `NNN` by its two fields. -/
theorem wordNNN_of_fields {w : Word} {op : BitVec 4} (hop : fieldOp w = op) : wordNNN op (fieldNNN w) = w := by
  subst hop
  refine BitVec.eq_of_toNat_eq ?_
  rw [wordNNN_toNat, fieldOp_toNat, fieldNNN_toNat]
  omega

/-- A word of format `XKK` or `XSS` by its three fields. -/
theorem wordXKK_of_fields {w : Word} {op : BitVec 4} {kk : Byte} (hop : fieldOp w = op) (hkk : fieldKK w = kk) :
    wordXKK op (fieldX w) kk = w := by
  subst hop hkk
  refine BitVec.eq_of_toNat_eq ?_
  rw [wordXKK_toNat, fieldOp_toNat, fieldX_toNat, fieldKK_toNat]
  omega

/-- A word of format `XY0`, `XYS` or `XYN` by its four fields. -/
theorem wordXYN_of_fields {w : Word} {op n : BitVec 4} (hop : fieldOp w = op) (hn : fieldN w = n) :
    wordXYN op (fieldX w) (fieldY w) n = w := by
  subst hop hn
  refine BitVec.eq_of_toNat_eq ?_
  rw [wordXYN_toNat, fieldOp_toNat, fieldX_toNat, fieldY_toNat, fieldN_toNat]
  omega

/-! ## What the decoder can answer -/

/-- The digits of the words that R77 lists, by op. -/
def Refused (w : Word) : Prop :=
  (fieldOp w = 0x0#4 ∧ w ≠ 0x00E0#16 ∧ w ≠ 0x00EE#16) ∨
  (fieldOp w = 0x5#4 ∧ fieldN w ≠ 0x0#4) ∨
  (fieldOp w = 0x8#4 ∧ fieldN w ∉ [0x0#4, 0x1#4, 0x2#4, 0x3#4, 0x4#4, 0x5#4, 0x6#4, 0x7#4, 0xE#4]) ∨
  (fieldOp w = 0x9#4 ∧ fieldN w ≠ 0x0#4) ∨
  (fieldOp w = 0xE#4 ∧ fieldKK w ∉ [0x9E#8, 0xA1#8]) ∨
  (fieldOp w = 0xF#4 ∧
    fieldKK w ∉ [0x07#8, 0x0A#8, 0x15#8, 0x18#8, 0x1E#8, 0x29#8, 0x33#8, 0x55#8, 0x65#8])

/-- What a decoder may answer for a word: an instruction whose encoding the word is, or, for a word that R77 lists, a
refusal of it (R75). -/
inductive DecodeAnswer (w : Word) : Except DecodeError Instr → Prop
  | ok (i : Instr) (h : encode i = w) : DecodeAnswer w (.ok i)
  | unrecognised (h : Refused w) : DecodeAnswer w (.error (.unrecognised w))

/-- The answer of the dispatch of op 0. -/
theorem decodeOp0_answer {w : Word} (hop : fieldOp w = 0x0#4) : DecodeAnswer w (decodeOp0 w) := by
  unfold decodeOp0
  split_ifs with hcls hret
  · exact .ok _ hcls.symm
  · exact .ok _ hret.symm
  · exact .unrecognised (.inl ⟨hop, hcls, hret⟩)

/-- The answer of the dispatch of op 8. -/
theorem decodeOp8_answer {w : Word} (hop : fieldOp w = 0x8#4) : DecodeAnswer w (decodeOp8 w) := by
  unfold decodeOp8
  split
  iterate 9 exact .ok _ (wordXYN_of_fields hop ‹_›)
  exact .unrecognised (.inr (.inr (.inl ⟨hop, by simp_all⟩)))

/-- The answer of the dispatch of op E. -/
theorem decodeOpE_answer {w : Word} (hop : fieldOp w = 0xE#4) : DecodeAnswer w (decodeOpE w) := by
  unfold decodeOpE
  split
  iterate 2 exact .ok _ (wordXKK_of_fields hop ‹_›)
  exact .unrecognised (.inr (.inr (.inr (.inr (.inl ⟨hop, by simp_all⟩)))))

/-- The answer of the dispatch of op F. -/
theorem decodeOpF_answer {w : Word} (hop : fieldOp w = 0xF#4) : DecodeAnswer w (decodeOpF w) := by
  unfold decodeOpF
  split
  iterate 9 exact .ok _ (wordXKK_of_fields hop ‹_›)
  exact .unrecognised (.inr (.inr (.inr (.inr (.inr ⟨hop, by simp_all⟩)))))

/-- The decoder's answer for every word, by op. -/
theorem decodeWord_answer (w : Word) : DecodeAnswer w (decodeWord w) := by
  unfold decodeWord
  split
  · exact decodeOp0_answer ‹_›
  iterate 2 exact .ok _ (wordNNN_of_fields ‹_›)
  iterate 2 exact .ok _ (wordXKK_of_fields ‹_› rfl)
  · split_ifs with hn
    · exact .ok _ (wordXYN_of_fields ‹_› hn)
    · exact .unrecognised (.inr (.inl ⟨‹_›, hn⟩))
  iterate 2 exact .ok _ (wordXKK_of_fields ‹_› rfl)
  · exact decodeOp8_answer ‹_›
  · split_ifs with hn
    · exact .ok _ (wordXYN_of_fields ‹_› hn)
    · exact .unrecognised (.inr (.inr (.inr (.inl ⟨‹_›, hn⟩))))
  iterate 2 exact .ok _ (wordNNN_of_fields ‹_›)
  · exact .ok _ (wordXKK_of_fields ‹_› rfl)
  · exact .ok _ (wordXYN_of_fields ‹_› rfl)
  · exact decodeOpE_answer ‹_›
  · -- The arms above take the other fifteen values of the op digit.
    refine decodeOpF_answer ?_
    generalize fieldOp w = op at *
    revert op
    decide

/-- A word that decodes is the encoding of what it decodes to. -/
theorem encode_of_decodeWord {w : Word} {i : Instr} (h : decodeWord w = .ok i) : encode i = w := by
  have ha := decodeWord_answer w
  rw [h] at ha
  cases ha with
  | ok _ hi => exact hi

/-- An error of the decoder is the refusal of a word that R77 lists. -/
theorem refused_of_decodeWord {w : Word} {e : DecodeError} (h : decodeWord w = .error e) :
    e = .unrecognised w ∧ Refused w := by
  have ha := decodeWord_answer w
  rw [h] at ha
  cases ha with
  | unrecognised hw => exact ⟨rfl, hw⟩

/-! ## The digits that the table fixes (R75) -/

open Laws.EncodeRow in
/-- The row of its mnemonic admits the word of every instruction. -/
theorem encode_admitted : ∀ i : Instr, Statement i
  | .cls => cls
  | .ret => ret
  | .jp nnn => jp nnn
  | .call nnn => call nnn
  | .seByte x kk => seByte x kk
  | .sneByte x kk => sneByte x kk
  | .seReg x y => seReg x y
  | .ldByte x kk => ldByte x kk
  | .addByte x kk => addByte x kk
  | .ldReg x y => ldReg x y
  | .orReg x y => orReg x y
  | .andReg x y => andReg x y
  | .xorReg x y => xorReg x y
  | .addReg x y => addReg x y
  | .subReg x y => subReg x y
  | .shr x y => shr x y
  | .subnReg x y => subnReg x y
  | .shl x y => shl x y
  | .sneReg x y => sneReg x y
  | .ldI nnn => ldI nnn
  | .jpV0 nnn => jpV0 nnn
  | .rnd x kk => rnd x kk
  | .drw x y n => drw x y n
  | .skp x => skp x
  | .sknp x => sknp x
  | .ldVxDT x => ldVxDT x
  | .ldVxK x => ldVxK x
  | .ldDTVx x => ldDTVx x
  | .ldSTVx x => ldSTVx x
  | .addIVx x => addIVx x
  | .ldFVx x => ldFVx x
  | .ldBVx x => ldBVx x
  | .ldMemVx x => ldMemVx x
  | .ldVxMem x => ldVxMem x

/-- A row of the decoded instruction's mnemonic admits the word. -/
theorem admitted_of_decodeWord {w : Word} {i : Instr} (h : decodeWord w = .ok i) :
    ∃ r ∈ opRows, r.mnemonic = i.mnemonic ∧ w &&& r.mask = r.pat := by
  obtain ⟨r, hr, hm, ha⟩ := encode_admitted i
  rw [encode_of_decodeWord h] at ha
  exact ⟨r, hr, hm, eq_of_beq ha⟩

section
variable {r : OpRow} {w : Word} (h : w &&& r.mask = r.pat)
include h

/-- Where a row fixes the op digit, the words it admits have it. -/
theorem fieldOp_of_admits (hm : fieldOp r.mask = 0xF#4) : fieldOp w = fieldOp r.pat := by
  rw [← h, fieldOp, fieldOp, BitVec.extractLsb'_and, ← fieldOp, ← fieldOp, hm, Laws.EncodeRow.and_ones4]

/-- Where a row fixes the low nibble, the words it admits have it. -/
theorem fieldN_of_admits (hm : fieldN r.mask = 0xF#4) : fieldN w = fieldN r.pat := by
  rw [← h, fieldN, fieldN, BitVec.extractLsb'_and, ← fieldN, ← fieldN, hm, Laws.EncodeRow.and_ones4]

/-- Where a row fixes the low byte, the words it admits have it. -/
theorem fieldKK_of_admits (hm : fieldKK r.mask = 0xFF#8) : fieldKK w = fieldKK r.pat := by
  rw [← h, fieldKK, fieldKK, BitVec.extractLsb'_and, ← fieldKK, ← fieldKK, hm, Laws.EncodeRow.and_ones8]

end

/-- No row admits a word that R77 lists: the table's rows of its op fix the digits that are not the word's. -/
theorem not_admitted_of_refused {w : Word} (hw : Refused w) {r : OpRow} (hr : r ∈ opRows) : w &&& r.mask ≠ r.pat := by
  intro h
  have hop : fieldOp w = fieldOp r.pat :=
    fieldOp_of_admits h ((by decide : ∀ r ∈ opRows, fieldOp r.mask = 0xF#4) r hr)
  rw [Refused, hop] at hw
  obtain ⟨h0, hcls, hret⟩ | ⟨h5, hn⟩ | ⟨h8, hn⟩ | ⟨h9, hn⟩ | ⟨hE, hkk⟩ | ⟨hF, hkk⟩ := hw
  · obtain ⟨hm, hp⟩ := (by decide : ∀ r ∈ opRows, fieldOp r.pat = 0x0#4 →
      r.mask = 0xFFFF#16 ∧ (r.pat = 0x00E0#16 ∨ r.pat = 0x00EE#16)) r hr h0
    have hwp : w = r.pat := by rw [← h, hm]; exact BitVec.and_allOnes.symm
    exact (hwp ▸ hp).elim hcls hret
  · obtain ⟨hm, hp⟩ := (by decide : ∀ r ∈ opRows, fieldOp r.pat = 0x5#4 →
      fieldN r.mask = 0xF#4 ∧ fieldN r.pat = 0x0#4) r hr h5
    exact hn ((fieldN_of_admits h hm).trans hp)
  · obtain ⟨hm, hp⟩ := (by decide : ∀ r ∈ opRows, fieldOp r.pat = 0x8#4 → fieldN r.mask = 0xF#4 ∧
      fieldN r.pat ∈ [0x0#4, 0x1#4, 0x2#4, 0x3#4, 0x4#4, 0x5#4, 0x6#4, 0x7#4, 0xE#4]) r hr h8
    exact hn (fieldN_of_admits h hm ▸ hp)
  · obtain ⟨hm, hp⟩ := (by decide : ∀ r ∈ opRows, fieldOp r.pat = 0x9#4 →
      fieldN r.mask = 0xF#4 ∧ fieldN r.pat = 0x0#4) r hr h9
    exact hn ((fieldN_of_admits h hm).trans hp)
  · obtain ⟨hm, hp⟩ := (by decide : ∀ r ∈ opRows, fieldOp r.pat = 0xE#4 → fieldKK r.mask = 0xFF#8 ∧
      fieldKK r.pat ∈ [0x9E#8, 0xA1#8]) r hr hE
    exact hkk (fieldKK_of_admits h hm ▸ hp)
  · obtain ⟨hm, hp⟩ := (by decide : ∀ r ∈ opRows, fieldOp r.pat = 0xF#4 → fieldKK r.mask = 0xFF#8 ∧
      fieldKK r.pat ∈ [0x07#8, 0x0A#8, 0x15#8, 0x18#8, 0x1E#8, 0x29#8, 0x33#8, 0x55#8, 0x65#8]) r hr hF
    exact hkk (fieldKK_of_admits h hm ▸ hp)

/-- A word that some row admits decodes. -/
theorem decodeWord_of_admitted {w : Word} {r : OpRow} (hr : r ∈ opRows) (h : w &&& r.mask = r.pat) :
    ∃ i, decodeWord w = .ok i := by
  cases hd : decodeWord w with
  | ok i => exact ⟨i, rfl⟩
  | error e =>
    obtain ⟨-, hw⟩ := refused_of_decodeWord hd
    exact absurd h (not_admitted_of_refused hw hr)

/-- The decoder refuses a word under its own name exactly when R77 lists it. -/
theorem decodeWord_unrecognised_iff (w : Word) : decodeWord w = .error (.unrecognised w) ↔ Refused w := by
  refine ⟨fun h => (refused_of_decodeWord h).2, fun hw => ?_⟩
  cases hd : decodeWord w with
  | ok i =>
    obtain ⟨r, hr, -, h⟩ := admitted_of_decodeWord hd
    exact absurd h (not_admitted_of_refused hw hr)
  | error e =>
    obtain ⟨rfl, -⟩ := refused_of_decodeWord hd
    rfl

/-! ## Digits as numbers -/

/-- The op digit of a word by its number. -/
theorem fieldOp_eq_iff (w : Word) (c : BitVec 4) : fieldOp w = c ↔ w.toNat / 0x1000 = c.toNat := by
  rw [← BitVec.toNat_inj, fieldOp_toNat]

/-- Which values the low nibble may take, by the number of the word. -/
theorem fieldN_mem_iff (w : Word) (l : List (BitVec 4)) : fieldN w ∈ l ↔ w.toNat % 0x10 ∈ l.map BitVec.toNat := by
  rw [← fieldN_toNat, List.mem_map_of_injective BitVec.toNat_injective]

/-- Which values the low byte may take, by the number of the word. -/
theorem fieldKK_mem_iff (w : Word) (l : List Byte) : fieldKK w ∈ l ↔ w.toNat % 0x100 ∈ l.map BitVec.toNat := by
  rw [← fieldKK_toNat, List.mem_map_of_injective BitVec.toNat_injective]

/-! ## Words by their numbers (R74) -/

section
variable {i : Instr} {op : BitVec 4} {base : Nat}

/-- An instruction's word, given by its number, decodes to it. -/
theorem decodes_of_toNat {n : Nat} (h : (encode i).toNat = n) : Machine.Decodes n i := by
  subst h
  rw [Machine.Decodes, BitVec.ofNat_toNat, BitVec.setWidth_eq, decodeWord_encode]

/-- The rows of format `NNN`. -/
theorem decodes_nnn {nnn : Addr} (hi : encode i = wordNNN op nnn) (hb : op.toNat * 0x1000 = base) :
    Machine.Decodes (base + nnn.toNat) i := by
  have hw := wordNNN_toNat op nnn
  exact decodes_of_toNat (by rw [hi]; omega)

/-- The rows of format `XKK`. -/
theorem decodes_xkk {x : Reg} {kk : Byte} (hi : encode i = wordXKK op x kk) (hb : op.toNat * 0x1000 = base) :
    Machine.Decodes (base + 0x100 * x.toNat + kk.toNat) i := by
  have hw := wordXKK_toNat op x kk
  exact decodes_of_toNat (by rw [hi]; omega)

/-- The rows of format `XSS`: the low byte is a fixed part of the number. -/
theorem decodes_xss {x : Reg} {ss : Byte} (hi : encode i = wordXKK op x ss)
    (hb : op.toNat * 0x1000 + ss.toNat = base) : Machine.Decodes (base + 0x100 * x.toNat) i := by
  have hw := wordXKK_toNat op x ss
  exact decodes_of_toNat (by rw [hi]; omega)

/-- The rows of formats `XY0` and `XYS`: the low nibble is a fixed part of the number. -/
theorem decodes_xys {x y : Reg} {s : BitVec 4} (hi : encode i = wordXYN op x y s)
    (hb : op.toNat * 0x1000 + s.toNat = base) : Machine.Decodes (base + 0x100 * x.toNat + 0x10 * y.toNat) i := by
  have hw := wordXYN_toNat op x y s
  exact decodes_of_toNat (by rw [hi]; omega)

/-- The row of format `XYN`. -/
theorem decodes_xyn {x y : Reg} {n : BitVec 4} (hi : encode i = wordXYN op x y n) (hb : op.toNat * 0x1000 = base) :
    Machine.Decodes (base + 0x100 * x.toNat + 0x10 * y.toNat + n.toNat) i := by
  have hw := wordXYN_toNat op x y n
  exact decodes_of_toNat (by rw [hi]; omega)

end

/-- A worked encoding, read both ways. -/
theorem decodeWord_and_encode {w : Word} {i : Instr} (h : encode i = w) : decodeWord w = .ok i ∧ encode i = w :=
  ⟨h ▸ decodeWord_encode i, h⟩

end Sys2Proof

/-! ## The obligations -/

namespace Sys2Proof.Proofs

/-- Settles O3, by the formats of R72. -/
theorem decodeOfEncode : Obligations.DecodeOfEncode := fun i rest _ =>
  ⟨decodeWord_encode i, decodeBytes_encodeBytes i rest⟩

/-- Settles O2: each row's number is that of its instruction's word, which decodes to the instruction. -/
theorem opcodeMapDecodes : Obligations.OpcodeMapDecodes := by
  refine ⟨decodes_of_toNat rfl, decodes_of_toNat rfl, fun nnn => ?_, fun x kk => ?_, fun x y => ?_, fun x => ?_⟩
  · exact ⟨decodes_nnn rfl rfl, decodes_nnn rfl rfl, decodes_nnn rfl rfl, decodes_nnn rfl rfl⟩
  · exact ⟨decodes_xkk rfl rfl, decodes_xkk rfl rfl, decodes_xkk rfl rfl, decodes_xkk rfl rfl, decodes_xkk rfl rfl⟩
  · exact ⟨decodes_xys rfl rfl, decodes_xys rfl rfl, decodes_xys rfl rfl, decodes_xys rfl rfl, decodes_xys rfl rfl,
      decodes_xys rfl rfl, decodes_xys rfl rfl, decodes_xys rfl rfl, decodes_xys rfl rfl, decodes_xys rfl rfl,
      decodes_xys rfl rfl, fun n => decodes_xyn rfl rfl⟩
  · exact ⟨decodes_xss rfl rfl, decodes_xss rfl rfl, decodes_xss rfl rfl, decodes_xss rfl rfl, decodes_xss rfl rfl,
      decodes_xss rfl rfl, decodes_xss rfl rfl, decodes_xss rfl rfl, decodes_xss rfl rfl, decodes_xss rfl rfl,
      decodes_xss rfl rfl⟩

/-- Settles O4: the word is put together again from the fields that the decoder looked at. -/
theorem encodeOfDecode : Obligations.EncodeOfDecode := fun _ _ h => encode_of_decodeWord h

/-- Settles O5: a word the decoder refuses has digits that no row of the table has. -/
theorem decodeAcceptsExactlyTheTable : Obligations.DecodeAcceptsExactlyTheTable := by
  refine fun w => ⟨⟨fun ⟨i, hi⟩ => ?_, fun ⟨r, hr, h⟩ => decodeWord_of_admitted hr h⟩, fun i => admitted_of_decodeWord⟩
  obtain ⟨r, hr, -, h⟩ := admitted_of_decodeWord hi
  exact ⟨r, hr, h⟩

/-- Settles O6: two rows that admit one word agree on the digits that both fix, and no two rows of the table do. -/
theorem tableRowsDisjoint : Obligations.TableRowsDisjoint := by
  intro w r₁ hr₁ r₂ hr₂ h₁ h₂
  have hagree : r₁.pat &&& r₂.mask = r₂.pat &&& r₁.mask :=
    calc r₁.pat &&& r₂.mask = w &&& r₁.mask &&& r₂.mask := by rw [h₁]
      _ = w &&& r₂.mask &&& r₁.mask := by rw [BitVec.and_assoc, BitVec.and_comm r₁.mask, ← BitVec.and_assoc]
      _ = r₂.pat &&& r₁.mask := by rw [h₂]
  exact (by decide : ∀ r₁ ∈ opRows, ∀ r₂ ∈ opRows, r₁.pat &&& r₂.mask = r₂.pat &&& r₁.mask → r₁ = r₂)
    r₁ hr₁ r₂ hr₂ hagree

/-- Settles O7: R77's table digit by digit, read as numbers. -/
theorem unrecognisedWordsByHighNibble : Obligations.UnrecognisedWordsByHighNibble := by
  intro w
  rw [decodeWord_unrecognised_iff]
  have hn : fieldN w ≠ 0x0#4 ↔ w.toNat % 0x10 ≠ 0 := by rw [Ne, ← BitVec.toNat_inj, fieldN_toNat]; rfl
  refine or_congr (and_congr (fieldOp_eq_iff ..) ?_) (or_congr (and_congr (fieldOp_eq_iff ..) hn)
    (or_congr (and_congr (fieldOp_eq_iff ..) ?_) (or_congr (and_congr (fieldOp_eq_iff ..) hn)
      (or_congr (and_congr (fieldOp_eq_iff ..) (not_congr (fieldKK_mem_iff ..)))
        (and_congr (fieldOp_eq_iff ..) (not_congr (fieldKK_mem_iff ..)))))))
  · rw [Ne, Ne, ← BitVec.toNat_inj, ← BitVec.toNat_inj]
    rfl
  · rw [fieldN_mem_iff]
    exact (by decide : ∀ n < 0x10, n ∉ [0x0, 0x1, 0x2, 0x3, 0x4, 0x5, 0x6, 0x7, 0xE] ↔
      n ∈ [0x8, 0x9, 0xA, 0xB, 0xC, 0xD, 0xF]) _ (Nat.mod_lt _ (by decide))

/-- Settles O1: each decoding is that of an encoding, and the two bytes of CLS are read back from the block stored. -/
theorem workedEncodings : Obligations.WorkedEncodings :=
  ⟨decodeWord_and_encode rfl, decodeWord_and_encode rfl, decodeWord_and_encode rfl, decodeWord_and_encode rfl,
    decodeWord_and_encode rfl, decodeWord_and_encode rfl, decodeWord_and_encode rfl, decodeWord_and_encode rfl,
    fun s => ⟨Machine.memRead_storeBytes_inside _ 0x200 s 0 (by decide) (by decide),
      Machine.memRead_storeBytes_inside _ 0x200 s 1 (by decide) (by decide)⟩⟩

end Sys2Proof.Proofs
end

section
/-! SUPPORT. What a step is in each run state (`step_of_halted`, `step_of_waiting`, `step_of_unrecognised`,
`step_of_decoded`), that the execute phase and every host operation answer, and what an error raised in a step leaves.
The obligations on the step cycle (`40_step_cycle.md`) are derived from that. -/

namespace Sys2Proof.Machine

/-! ## Every operation answers (R115) -/

/-- The execute phase answers a next state, CALL and RET whatever the stack holds. -/
theorem exec_answers (i : Instr) (s : State) : ∃ t, exec i s = .next t := by
  cases i with
  | call nnn =>
    simp only [exec, execCall]
    obtain ⟨-, hpush⟩ | ⟨-, hpush⟩ := push_cases s s.pc <;> exact ⟨_, by rw [hpush]⟩
  | ret =>
    simp only [exec, execRet]
    obtain ⟨_, _, -, hpop⟩ | ⟨-, hpop⟩ := pop_cases s <;> exact ⟨_, by rw [hpop]⟩
  | _ => exact ⟨_, rfl⟩

/-- A Running step whose word decodes is the execute phase and what follows it (R103 to R105). -/
theorem runningStep_of_decoded {s u : State} {rand : Byte} {i : Instr} (now : Nat)
    (hd : decodeWord (fetchWord s s.pc) = .ok i) (hu : exec i (executeEntry s rand) = .next u) :
    runningStep now rand s = .next (afterExecute now u) := by
  simp only [runningStep, hd, hu]

/-- A Running step whose word does not decode raises UnknownOpcode (R106). -/
theorem runningStep_of_unrecognised {s : State} {e : DecodeError} (now : Nat) (rand : Byte)
    (hd : decodeWord (fetchWord s s.pc) = .error e) :
    runningStep now rand s = .next (raiseError (executeEntry s rand) .unknownOpcode (fetchWord s s.pc)) := by
  simp only [runningStep, hd]

theorem runningStep_answers (now : Nat) (rand : Byte) (s : State) : ∃ t, runningStep now rand s = .next t := by
  cases hd : decodeWord (fetchWord s s.pc) with
  | error e => exact ⟨_, runningStep_of_unrecognised now rand hd⟩
  | ok i =>
    obtain ⟨u, hu⟩ := exec_answers i (executeEntry s rand)
    exact ⟨_, runningStep_of_decoded now hd hu⟩

/-- `step(now, rand)` answers in each of the three run states. -/
theorem stepOp_answers (now : Nat) (rand : Byte) (s : State) : ∃ t, stepOp now rand s = .next t := by
  cases hh : s.halted with
  | some info => exact ⟨_, stepOp_halted s now rand info hh⟩
  | none =>
    cases hw : s.wait with
    | some x => exact ⟨_, stepOp_waiting s now rand x hh hw⟩
    | none =>
      rw [stepOp_running s now rand hh hw]
      exact runningStep_answers now rand s

theorem perform_answers (op : HostOp) (s : State) : ∃ t, perform op s = .next t := by
  cases op with
  | step now rand => exact stepOp_answers now rand s
  | reset | loadProgram | readFramebuffer | setKey | delayTimer | soundTimer => exact ⟨_, rfl⟩

/-! ## A step of the machine, by run state -/

section
variable {s : State} {now : Nat} {rand : Byte}

/-- Where the host's next operation is `step(now, rand)`, the machine's step is the step of R114. -/
theorem step_eq_stepOp (hop : StepsWith s now rand) : step s = stepOp now rand (takeOp s) := by
  rw [step, transition, hop, perform]

theorem step_of_halted {info : StepReport} (hh : s.halted = some info) (hop : StepsWith s now rand) :
    step s = .next (haltedStep info (takeOp s)) := by
  rw [step_eq_stepOp hop, stepOp_halted (takeOp s) now rand info hh]

theorem step_of_waiting {x : Reg} (hx : WaitingFor s x) (hop : StepsWith s now rand) :
    step s = .next (waitingStep x now (takeOp s)) := by
  obtain ⟨hwait, hhalted⟩ := hx
  rw [step_eq_stepOp hop, stepOp_waiting (takeOp s) now rand x hhalted hwait]

theorem step_of_running (hr : Running s) (hop : StepsWith s now rand) :
    step s = runningStep now rand (takeOp s) := by
  obtain ⟨hwait, hhalted⟩ := hr
  rw [step_eq_stepOp hop, stepOp_running (takeOp s) now rand hhalted hwait]

/-- A step in the Running state runs the instruction its word decodes to (R101 to R105). -/
theorem step_of_decoded {u : State} {i : Instr} (hr : Running s) (hop : StepsWith s now rand)
    (hd : decodeWord (fetchWord s s.pc) = .ok i) (hu : exec i (executeEntry (takeOp s) rand) = .next u) :
    step s = .next (afterExecute now u) :=
  (step_of_running hr hop).trans (runningStep_of_decoded now hd hu)

/-- A step in the Running state raises UnknownOpcode for a word that does not decode (R106). -/
theorem step_of_unrecognised {e : DecodeError} (hr : Running s) (hop : StepsWith s now rand)
    (hd : decodeWord (fetchWord s s.pc) = .error e) :
    step s = .next (raiseError (executeEntry (takeOp s) rand) .unknownOpcode (fetchWord s s.pc)) :=
  (step_of_running hr hop).trans (runningStep_of_unrecognised now rand hd)

/-- What a step in the Running state can be: one that raises UnknownOpcode or one that executes. -/
theorem running_step_cases {t : State} (hr : Running s) (hop : StepsWith s now rand) (h : step s = .next t) :
    (∃ e, decodeWord (fetchWord s s.pc) = .error e ∧
      t = raiseError (executeEntry (takeOp s) rand) .unknownOpcode (fetchWord s s.pc)) ∨
    (∃ i u, decodeWord (fetchWord s s.pc) = .ok i ∧ exec i (executeEntry (takeOp s) rand) = .next u ∧
      t = afterExecute now u) := by
  cases hd : decodeWord (fetchWord s s.pc) with
  | error e =>
    rw [step_of_unrecognised hr hop hd] at h
    cases h
    exact .inl ⟨e, rfl, rfl⟩
  | ok i =>
    obtain ⟨u, hu⟩ := exec_answers i (executeEntry (takeOp s) rand)
    rw [step_of_decoded hr hop hd hu] at h
    cases h
    exact .inr ⟨i, u, rfl, hu, rfl⟩

end

/-- Two bytes decode to what the word they make decodes to (R54, R70). -/
theorem decodeWord_of_decodeBytes {hi lo : Byte} {i : Instr} {rest : List Byte}
    (h : decodeBytes [hi, lo] = .ok (i, rest)) : decodeWord (wordOfBytes hi lo) = .ok i := by
  unfold decodeBytes at h
  cases hd : decodeWord (wordOfBytes hi lo) with
  | error e => simp [hd] at h
  | ok j =>
    simp only [hd] at h
    cases h
    rfl

/-! ## Errors raised in a step (R107, R231 to R235) -/

/-- The report of an error raised in a step holds the `pc` from before the advance (R232). -/
theorem stepReport_executeEntry (s : State) (rand : Byte) (k : ErrorKind) (w : Word) :
    stepReport (executeEntry s rand) k w = ⟨k, errorCode k, w, s.pc⟩ := by
  simp [stepReport]

/-- Under `Halt` an error halts the core with its report (R234). -/
theorem raiseError_halted_halt (s : State) (k : ErrorKind) (w : Word) (hp : s.params.errorPolicy = .halt) :
    (raiseError s k w).halted = some (stepReport s k w) := by
  simp only [raiseError, hp]

/-- Under `Continue` an error leaves the halted slot alone (R235). -/
theorem raiseError_halted_continue (s : State) (k : ErrorKind) (w : Word)
    (hp : s.params.errorPolicy = .continueRunning) : (raiseError s k w).halted = s.halted := by
  simp only [raiseError, hp]

/-- The timer check is no error: it leaves the reply alone. -/
theorem raised_afterExecute (now : Nat) (u : State) : raised (afterExecute now u) = raised u := by
  unfold afterExecute
  split <;> rfl

/-- Nothing follows an execute phase that raised an error (R107). -/
theorem afterExecute_of_raised {u : State} (now : Nat) (hu : raised u = true) : afterExecute now u = u :=
  if_pos hu

/-- No effect of the execute phase but an error sets the reply. -/
theorem exec_of_raised {i : Instr} {s t : State} (h : exec i s = .next t) (hs : raised s = false)
    (ht : raised t = true) : ∃ k w, t = raiseError s k w := by
  cases exec_effect h with
  | error k w => exact ⟨k, w, rfl⟩
  | registers | memory | index | jump | skip | call | ret | delayTimer | soundTimer | clear | draw | keyWait =>
    exact absurd (hs.symm.trans ht) Bool.false_ne_true

/-- A Running step that raises an error is the advance and the raise, whichever error it is (R107). -/
theorem step_of_raised {s t : State} {now : Nat} {rand : Byte} (hr : Running s) (hop : StepsWith s now rand)
    (h : step s = .next t) (ht : raised t = true) :
    ∃ k w, t = raiseError (executeEntry (takeOp s) rand) k w := by
  obtain ⟨e, -, rfl⟩ | ⟨i, u, -, hu, rfl⟩ := running_step_cases hr hop h
  · exact ⟨_, _, rfl⟩
  · rw [raised_afterExecute] at ht
    rw [afterExecute_of_raised now ht]
    exact exec_of_raised hu rfl ht

end Sys2Proof.Machine

/-! ## The obligations -/

namespace Sys2Proof.Proofs

open Sys2Proof.Machine

/-- Settles O10: the raise of UnknownOpcode, with its report and its halted slot under each policy. -/
theorem unrecognisedWordRaises : Obligations.UnrecognisedWordRaises := by
  intro s now rand hr hop hd
  rw [step_of_unrecognised hr hop hd, raiseError_frame, stepReport_executeEntry]
  cases hp : s.params.errorPolicy with
  | halt =>
    rw [raiseError_halted_halt (executeEntry (takeOp s) rand) _ _ hp, stepReport_executeEntry]
    rfl
  | continueRunning =>
    rw [raiseError_halted_continue (executeEntry (takeOp s) rand) _ _ hp, executeEntry_halted, takeOp_halted, hr.2]
    rfl

/-- Settles O11: such a step is the advance and a raise, which writes the halted slot and the reply alone. -/
theorem errorStepChangesOnlyPc : Obligations.ErrorStepChangesOnlyPc := by
  intro s t now rand hr hop h ht
  obtain ⟨k, w, rfl⟩ := step_of_raised hr hop h ht
  refine ⟨rfl, fun hp => ?_, fun hp => ?_⟩
  · exact (raiseError_halted_continue (executeEntry (takeOp s) rand) k w hp).trans hr.2
  · exact ⟨_, raiseError_halted_halt (executeEntry (takeOp s) rand) k w hp, rfl⟩

/-- Settles O14: the key found is the least one, and its index fits the register. -/
theorem waitingStepResolves : Obligations.WaitingStepResolves := by
  intro s x now rand k hx hop hk hleast
  have hkey : leastKey (takeOp s) = some k := leastKey_eq_some (takeOp s) k hk hleast
  have hget : ∀ r, getV (setV s x (k.setWidth 8)) r = if r = x then k.setWidth 8 else getV s r :=
    fun r => getV_setV s x r _
  rw [step_of_waiting hx hop, waitingStep, hkey]
  refine ⟨_, rfl, ?_, fun r hrx => (hget r).trans (if_neg hrx), rfl⟩
  calc (getV (setV s x (k.setWidth 8)) x).toNat = (k.setWidth 8).toNat := by rw [hget, if_pos rfl]
    _ = k.toNat := BitVec.toNat_setWidth_of_le (by decide)

/-- Settles O25: in Halted a step changes nothing, and of the host's other operations a load writes memory and `set_key`
the keys. -/
theorem haltedUntilReset : Obligations.HaltedUntilReset := by
  intro s t info hh hreset h
  have hne : (takeOp s).halted ≠ none := by simp [hh]
  have heff := step_effect h
  generalize nextOp s = op at heff hreset
  cases heff with
  | reset now => exact absurd rfl (hreset now)
  | load bytes _ =>
    rw [storeBytes_frame]
    rfl
  | loadTooLarge | readFramebuffer | setKey | delayTimer | soundTimer | stepHalted => rfl
  | stepWaiting _ _ _ hx | stepResolved _ _ _ _ hx => exact absurd hx.2 hne
  | stepUnknown _ _ _ hr | stepExecuted _ _ _ _ hr => exact absurd hr.2 hne

/-- Settles O29: `step(now, rand)` answers in each run state, and the host's other operations always do. -/
theorem everyStepAnswers : Obligations.EveryStepAnswers := fun s => perform_answers (nextOp s) (takeOp s)

/-- Settles O9: the two bytes are those of the word fetched, and the execute phase answers. -/
theorem stepRunsDecodedInstruction : Obligations.StepRunsDecodedInstruction := by
  intro s now rand i hr hop hbytes _
  obtain ⟨u, hu⟩ := exec_answers i { takeOp s with pc := s.pc + 2#16, rand := rand, reply := .step .ok }
  rw [step_of_decoded hr hop (decodeWord_of_decodeBytes hbytes) hu, hu]
  rfl

/-- Settles O13: no least key is found, so only the timer check runs. -/
theorem waitingStepWithoutKey : Obligations.WaitingStepWithoutKey := by
  intro s x now rand hx hop hkeys
  have hkey : leastKey (takeOp s) = none := (leastKey_eq_none (takeOp s)).2 hkeys
  rw [step_of_waiting hx hop, waitingStep, hkey]
  rfl

/-- Settles O15: a halted step sets the reply and nothing else. -/
theorem haltedStepChangesNothing : Obligations.HaltedStepChangesNothing :=
  fun _ _ _ _ hh hop => step_of_halted hh hop

end Sys2Proof.Proofs
end

section
/-! SUPPORT. Where each jump, call, return and skip leaves `pc`, and what CALL and RET answer for each stack. The
obligations on control flow (`41_control_flow.md`) are derived from that. -/

namespace Sys2Proof

/-- No instruction stands at a number whose word R77 lists. -/
theorem not_decodes_of_refused {n : Nat} (h : Refused (BitVec.ofNat 16 n)) (i : Instr) : ¬ Machine.Decodes n i := by
  rw [Machine.Decodes, (decodeWord_unrecognised_iff _).2 h]
  exact nofun

/-- Ops 5 and 9 have the one row of format `XY0`: a low nibble other than 0 decodes to nothing (R75). -/
theorem not_decodes_xy0 {op : BitVec 4} {base n : Nat} (hop : op = 0x5#4 ∨ op = 0x9#4) (hb : op.toNat * 0x1000 = base)
    (x y : Reg) (h0 : 0 < n) (h16 : n < 16) (i : Instr) :
    ¬ Machine.Decodes (base + 0x100 * x.toNat + 0x10 * y.toNat + n) i := by
  have hx := x.isLt
  have hy := y.isLt
  have hopLt := op.isLt
  refine not_decodes_of_refused ?_ i
  generalize hw : BitVec.ofNat 16 (base + 0x100 * x.toNat + 0x10 * y.toNat + n) = w
  have hnum : w.toNat = base + 0x100 * x.toNat + 0x10 * y.toNat + n := by
    rw [← hw, BitVec.toNat_ofNat]
    omega
  have hfop : fieldOp w = op := (fieldOp_eq_iff w op).2 (by omega)
  have hfn : fieldN w ≠ 0x0#4 := by
    rw [Ne, ← BitVec.toNat_inj, fieldN_toNat, BitVec.toNat_ofNat]
    omega
  obtain rfl | rfl := hop
  · exact .inr (.inl ⟨hfop, hfn⟩)
  · exact .inr (.inr (.inr (.inl ⟨hfop, hfn⟩)))

end Sys2Proof

namespace Sys2Proof.Machine

/-! ## Where an instruction leaves `pc` -/

/-- Zero extension keeps the number of a 12-bit address (R73). -/
@[simp] theorem addrWord_toNat (nnn : Addr) : (addrWord nnn).toNat = nnn.toNat :=
  BitVec.toNat_setWidth_of_le (by decide)

/-- An address and a byte add up to less than 2^16, so the sum of JP V0 is exact (R128). -/
theorem addrWord_add_toNat (nnn : Addr) (w : Byte) :
    (addrWord nnn + w.setWidth 16).toNat = nnn.toNat + w.toNat := by
  have hnnn := nnn.isLt
  have hw := w.isLt
  rw [BitVec.toNat_add, addrWord_toNat, BitVec.toNat_setWidth_of_le (by decide)]
  omega

/-- `Skip(cond)` as a number: one more instruction word, modulo 2^16, when the condition holds (R120). -/
theorem skipIf_pc_toNat (s : State) (c : Bool) :
    (skipIf s c).pc.toNat = (s.pc.toNat + if c then 2 else 0) % 0x10000 := by
  cases c with
  | true => exact BitVec.toNat_add ..
  | false => exact (Nat.mod_eq_of_lt s.pc.isLt).symm

/-- A skip on equal bytes (R124, R126). -/
theorem skipIf_beq_pc_toNat (s : State) (a b : Byte) :
    (skipIf s (a == b)).pc.toNat = (s.pc.toNat + if a = b then 2 else 0) % 0x10000 := by
  simp only [skipIf_pc_toNat, beq_iff_eq]

/-- A skip on different bytes (R125, R127). -/
theorem skipIf_bne_pc_toNat (s : State) (a b : Byte) :
    (skipIf s (a != b)).pc.toNat = (s.pc.toNat + if a = b then 0 else 2) % 0x10000 := by
  simp only [skipIf_pc_toNat, bne_iff_ne, ne_eq, ite_not]

/-! ## CALL and RET by the stack (R29) -/

/-- CALL with room on the stack pushes `pc` and jumps (R123). -/
theorem exec_call_of_lt {s : State} (nnn : Addr) (h : s.stack.length < Config.stackDepth) :
    exec (.call nnn) s = .next (setPc { s with stack := s.pc :: s.stack } (addrWord nnn)) := by
  obtain ⟨-, hpush⟩ | ⟨hfull, -⟩ := push_cases s s.pc
  · simp only [exec, execCall, hpush]
  · exact absurd h (Nat.not_lt.2 hfull)

/-- CALL on a full stack raises StackOverflow (R123). -/
theorem exec_call_of_le {s : State} (nnn : Addr) (h : Config.stackDepth ≤ s.stack.length) :
    exec (.call nnn) s = .next (raiseError s .stackOverflow (encode (.call nnn))) := by
  obtain ⟨hroom, -⟩ | ⟨-, hpush⟩ := push_cases s s.pc
  · exact absurd h (Nat.not_le.2 hroom)
  · simp only [exec, execCall, hpush]

/-- RET with a saved `pc` pops it and jumps there (R121). -/
theorem exec_ret_of_cons {s : State} {w : Word} {rest : List Word} (h : s.stack = w :: rest) :
    exec .ret s = .next (setPc { s with stack := rest } w) := by
  simp only [exec, execRet, pop, h]

/-- RET on an empty stack raises StackUnderflow (R121). -/
theorem exec_ret_of_nil {s : State} (h : s.stack = []) :
    exec .ret s = .next (raiseError s .stackUnderflow (encode .ret)) := by
  simp only [exec, execRet, pop, h]

end Sys2Proof.Machine

/-! ## The obligations -/

namespace Sys2Proof.Proofs

open Sys2Proof.Machine

/-- Settles O36: a saved `pc` is popped, and on the empty stack only the raise is left. -/
theorem retRule : Obligations.RetRule :=
  ⟨decodes_of_toNat rfl, fun _ _ _ hs => exec_ret_of_cons hs,
    fun s hs => ⟨_, exec_ret_of_nil hs, raiseError_frame s .stackUnderflow (encode .ret), rfl⟩⟩

/-- Settles O38: below the depth the push and the jump, at the depth only the raise, whose word is the one decoded. -/
theorem callRule : Obligations.CallRule := by
  intro nnn s
  have hdecodes : Decodes (0x2000 + nnn.toNat) (.call nnn) := decodes_nnn rfl rfl
  refine ⟨hdecodes, fun hroom => ?_, fun hfull => ?_⟩
  · exact ⟨_, exec_call_of_lt nnn hroom, addrWord_toNat nnn, rfl⟩
  · rw [exec_call_of_le nnn hfull.ge, encode_of_decodeWord hdecodes]
    exact ⟨_, rfl, raiseError_frame .., rfl⟩

/-- Settles O39: the two rows of format `XKK`, and the skip under each comparison. -/
theorem skipOnByteRule : Obligations.SkipOnByteRule := fun x kk s =>
  ⟨decodes_xkk rfl rfl, decodes_xkk rfl rfl,
    ⟨_, rfl, rfl, skipIf_beq_pc_toNat s (getV s x) kk⟩, ⟨_, rfl, rfl, skipIf_bne_pc_toNat s (getV s x) kk⟩⟩

/-- Settles O40: the two rows of format `XY0` and the words they leave out, and the skip under each comparison. -/
theorem skipOnRegisterRule : Obligations.SkipOnRegisterRule := by
  refine fun x y s => ⟨decodes_xys rfl rfl, decodes_xys rfl rfl, fun n h0 h16 i => ⟨?_, ?_⟩, ?_, ?_⟩
  · exact not_decodes_xy0 (.inl rfl) rfl x y h0 h16 i
  · exact not_decodes_xy0 (.inr rfl) rfl x y h0 h16 i
  · exact ⟨_, rfl, rfl, skipIf_beq_pc_toNat s (getV s x) (getV s y)⟩
  · exact ⟨_, rfl, rfl, skipIf_bne_pc_toNat s (getV s x) (getV s y)⟩

/-- Settles O37: zero extension keeps the address. -/
theorem jpRule : Obligations.JpRule := fun nnn _ => ⟨decodes_nnn rfl rfl, _, rfl, addrWord_toNat nnn, rfl⟩

/-- Settles O41: the sum is below 2^16, so nothing is lost. -/
theorem jpV0Rule : Obligations.JpV0Rule := fun nnn s =>
  ⟨decodes_nnn rfl rfl, _, rfl, addrWord_add_toNat nnn (getV s 0x0#4), rfl⟩

end Sys2Proof.Proofs
end

section
/-! SUPPORT. What a write of Vx, and of Vx and then VF, leaves in the registers, and the values written as numbers: the
sums, differences and shifts modulo 256 (R153) and their flags. The obligations on the register instructions
(`42_register_alu.md`) are derived from that. -/

namespace Sys2Proof.Machine

/-! ## The registers after a write -/

section
variable (s : State) (x : Reg) (w : Byte) (flag : Bool)

@[simp] theorem getV_setV_same : getV (setV s x w) x = w :=
  (getV_setV s x x w).trans (if_pos rfl)

theorem otherRegs_setV : OtherRegs s (setV s x w) x :=
  fun r hr => (getV_setV s x r w).trans (if_neg hr)

/-- A destination that is not VF keeps the value written to it (R22). -/
theorem getV_setVFlag_dest (hx : x ≠ 0xF#4) : getV (setVFlag s x w flag) x = w :=
  (getV_setVFlag s x x w flag).trans ((if_neg hx).trans (if_pos rfl))

/-- VF holds the flag, whatever the destination (R21, R22). -/
theorem getV_setVFlag_vf_toNat : (getV (setVFlag s x w flag) 0xF#4).toNat = if flag then 1 else 0 := by
  rw [getV_setVFlag, if_pos (show 0xF#4 = regF from rfl)]
  cases flag <;> rfl

theorem otherRegsAndVF_setVFlag : OtherRegsAndVF s (setVFlag s x w flag) x :=
  fun r hx hf => (getV_setVFlag s x r w flag).trans ((if_neg hf).trans (if_neg hx))

end

/-- What an instruction that writes Vx and then the flag owes (R22): the frame, what is asked of the value written where
it is not overwritten, and the flag's number. -/
theorem exec_setVFlag {i : Instr} {s : State} {x : Reg} {w : Byte} {flag : Bool} {n : Nat} (P : Byte → Prop)
    (h : exec i s = .next (setVFlag s x w flag)) (hw : P w) (hflag : (if flag then 1 else 0) = n) :
    ∃ t, exec i s = .next t ∧ OnlyRegs s t ∧ OtherRegsAndVF s t x ∧ (x ≠ 0xF#4 → P (getV t x)) ∧
      (getV t 0xF#4).toNat = n := by
  refine ⟨_, h, rfl, otherRegsAndVF_setVFlag s x w flag, fun hx => ?_, ?_⟩
  · rwa [getV_setVFlag_dest s x w flag hx]
  · rw [getV_setVFlag_vf_toNat, hflag]

/-! ## The values written and their flags -/

theorem carry_toNat (a b : Byte) : (if carry a b then 1 else 0) = if 256 ≤ a.toNat + b.toNat then 1 else 0 := by
  simp only [carry, decide_eq_true_eq]

theorem notBorrow_toNat (a b : Byte) : (if notBorrow a b then 1 else 0) = if b.toNat ≤ a.toNat then 1 else 0 := by
  simp only [notBorrow, decide_eq_true_eq]

/-- The difference modulo 256, with the integers' subtraction (R153). -/
theorem sub_toNat_eq_emod (a b : Byte) : ((a - b).toNat : Int) = (a.toNat - b.toNat : Int) % 256 := by
  have ha := a.isLt
  have hb := b.isLt
  rw [BitVec.toNat_sub]
  omega

theorem ushiftRight_one_toNat (w : Byte) : (w >>> 1).toNat = w.toNat / 2 :=
  BitVec.toNat_ushiftRight w 1

theorem shiftLeft_one_toNat (w : Byte) : (w <<< 1).toNat = 2 * w.toNat % 256 := by
  rw [BitVec.toNat_shiftLeft, Nat.shiftLeft_eq, Nat.mul_comm]

/-- A bit of a byte as a number: the byte's number shifted down to it, modulo 2. -/
theorem ite_getLsbD_eq (w : Byte) (b : Nat) : (if w.getLsbD b then 1 else 0) = w.toNat / 2 ^ b % 2 := by
  rw [← BitVec.testBit_toNat, Nat.testBit_eq_decide_div_mod_eq]
  obtain h | h := Nat.mod_two_eq_zero_or_one (w.toNat / 2 ^ b) <;> simp [h]

theorem shiftedOutRight_toNat (w : Byte) : (if shiftedOutRight w then 1 else 0) = w.toNat % 2 :=
  (ite_getLsbD_eq w 0).trans (by rw [Nat.pow_zero, Nat.div_one])

/-- Bit 7 is the highest bit of a byte, so nothing is left above it. -/
theorem shiftedOutLeft_toNat (w : Byte) : (if shiftedOutLeft w then 1 else 0) = w.toNat / 128 := by
  have hw := w.isLt
  have hbit := ite_getLsbD_eq w 7
  rw [shiftedOutLeft, hbit]
  omega

/-- `ShiftSrc(x, y)` as a choice on `SHIFT_SOURCE` (R152). -/
theorem shiftSrc_eq_ite (s : State) (x y : Reg) :
    shiftSrc s x y = if s.params.shiftSource = .vx then getV s x else getV s y := by
  unfold shiftSrc
  cases s.params.shiftSource <;> rfl

/-! ## The registers after a whole step -/

/-- What follows the execute phase leaves the registers alone (R105). -/
theorem getV_afterExecute (now : Nat) (u : State) (r : Reg) : getV (afterExecute now u) r = getV u r := by
  unfold afterExecute
  split <;> rfl

/-- A Running step of an instruction that writes Vx alone leaves the value in Vx and the other registers alone. -/
theorem step_of_exec_setV {s : State} {now : Nat} {rand w : Byte} {i : Instr} {x : Reg} (hr : Running s)
    (hop : StepsWith s now rand) (hd : decodeWord (fetchWord s s.pc) = .ok i)
    (hi : exec i (executeEntry (takeOp s) rand) = .next (setV (executeEntry (takeOp s) rand) x w)) :
    ∃ t, step s = .next t ∧ OtherRegs s t x ∧ getV t x = w := by
  refine ⟨_, step_of_decoded hr hop hd hi, fun r hrx => ?_, ?_⟩
  · rw [getV_afterExecute, otherRegs_setV _ x w r hrx]
    rfl
  · rw [getV_afterExecute, getV_setV_same]

end Sys2Proof.Machine

/-! ## The obligations -/

namespace Sys2Proof.Proofs

open Sys2Proof.Machine

/-- Settles O44: one register is written, with the sum modulo 256. -/
theorem addByteRule : Obligations.AddByteRule := by
  refine fun x kk s => ⟨decodes_xkk rfl rfl, _, rfl, ?_, otherRegs_setV s x _, rfl⟩
  rw [getV_setV_same]
  exact BitVec.toNat_add ..

/-- Settles O45: one register is written, and each bit of the value is that of the operation. -/
theorem bitwiseRule : Obligations.BitwiseRule := by
  refine fun x y s => ⟨decodes_xys rfl rfl, decodes_xys rfl rfl, decodes_xys rfl rfl,
    ⟨_, rfl, otherRegs_setV s x _, rfl, fun b => ?_⟩,
    ⟨_, rfl, otherRegs_setV s x _, rfl, fun b => ?_⟩,
    ⟨_, rfl, otherRegs_setV s x _, rfl, fun b => ?_⟩⟩
  · rw [getV_setV_same, BitVec.getLsbD_or]
  · rw [getV_setV_same, BitVec.getLsbD_and]
  · rw [getV_setV_same, BitVec.getLsbD_xor]

/-- Settles O46: the sum and then its carry, both of the operands before the instruction. -/
theorem addRegRule : Obligations.AddRegRule := fun x y s =>
  ⟨decodes_xys rfl rfl, exec_setVFlag (fun w => w.toNat = ((getV s x).toNat + (getV s y).toNat) % 256) rfl
    (BitVec.toNat_add ..) (carry_toNat ..)⟩

/-- Settles O47: the difference and then its NOT borrow, with the operands in either order. -/
theorem subtractRule : Obligations.SubtractRule := fun x y s =>
  ⟨decodes_xys rfl rfl, decodes_xys rfl rfl,
    exec_setVFlag (fun w => (w.toNat : Int) = ((getV s x).toNat - (getV s y).toNat : Int) % 256) rfl
      (sub_toNat_eq_emod ..) (notBorrow_toNat ..),
    exec_setVFlag (fun w => (w.toNat : Int) = ((getV s y).toNat - (getV s x).toNat : Int) % 256) rfl
      (sub_toNat_eq_emod ..) (notBorrow_toNat ..)⟩

/-- Settles O48: the source is read once, under either `SHIFT_SOURCE`; then its shift and the bit shifted out. -/
theorem shiftRule : Obligations.ShiftRule := by
  intro x y s
  rw [← shiftSrc_eq_ite]
  exact ⟨decodes_xys rfl rfl, decodes_xys rfl rfl,
    exec_setVFlag (fun w => w.toNat = (shiftSrc s x y).toNat / 2) rfl
      (ushiftRight_one_toNat _) (shiftedOutRight_toNat _),
    exec_setVFlag (fun w => w.toNat = 2 * (shiftSrc s x y).toNat % 256) rfl
      (shiftLeft_one_toNat _) (shiftedOutLeft_toNat _)⟩

/-- Settles O49: the execute phase masks the byte in `rand`, and there the step has put the byte it was given. -/
theorem randomRule : Obligations.RandomRule := by
  refine fun x kk s => ⟨decodes_xkk rfl rfl, ⟨_, rfl, otherRegs_setV s x _, rfl, fun b => ?_⟩,
    fun now rand hr hop hd => ?_⟩
  · rw [getV_setV_same, BitVec.getLsbD_and]
  · obtain ⟨t, hstep, hother, hx⟩ := step_of_exec_setV (w := rand &&& kk) hr hop hd rfl
    refine ⟨t, hstep, hother, fun b => ?_⟩
    rw [hx, BitVec.getLsbD_and]

/-- Settles O43: one register is written, with the byte or with Vy. -/
theorem registerLoadRule : Obligations.RegisterLoadRule := fun x y kk s =>
  ⟨decodes_xkk rfl rfl, decodes_xys rfl rfl,
    ⟨_, rfl, getV_setV_same s x kk, otherRegs_setV s x kk, rfl⟩,
    ⟨_, rfl, getV_setV_same s x (getV s y), otherRegs_setV s x (getV s y), rfl⟩⟩

end Sys2Proof.Proofs
end

section
/-! SUPPORT. The sprite of DRW in the terms of the rules: its pixels are those a 1 bit lands on (`mem_spriteOf`), none is
inverted twice (`nodup_spriteOf`), and what that makes of the framebuffer and of the collision flag. The obligations on the
display (`43_display.md`) are derived from that. -/

namespace Sys2Proof.Machine

section
variable (s : State) (x y : Reg) (n : RowCount)

/-- The pixels DRW inverts are those a 1 bit of its sprite lands on (R171 to R173). -/
theorem mem_spriteOf (py : Fin 32) (px : Fin 64) : (py, px) ∈ spriteOf s x y n ↔ Lands s x y n py px := by
  simp only [spriteOf, mem_spritePixels, loadBytes_length, loadBytes_get, exists_prop, Lands, indexAddr]

/-- DRW inverts no pixel twice: its row count has 4 bits, so it draws fewer than 32 rows (R176). -/
theorem nodup_spriteOf : (spriteOf s x y n).Nodup := by
  refine nodup_spritePixels _ _ _ ?_
  have hn := n.isLt
  rw [loadBytes_length]
  omega

/-- A pixel the sprite lands on is inverted (R171). -/
theorem pixel_flipPixels_spriteOf_of_lands {py : Fin 32} {px : Fin 64} (h : Lands s x y n py px) :
    pixel (flipPixels s.fb (spriteOf s x y n)) py px = !pixel s.fb py px := by
  rw [pixel_flipPixels _ _ (nodup_spriteOf s x y n), if_pos ((mem_spriteOf s x y n py px).2 h)]

/-- A pixel the sprite does not land on is unchanged (R172). -/
theorem pixel_flipPixels_spriteOf_of_not_lands {py : Fin 32} {px : Fin 64} (h : ¬ Lands s x y n py px) :
    pixel (flipPixels s.fb (spriteOf s x y n)) py px = pixel s.fb py px := by
  rw [pixel_flipPixels _ _ (nodup_spriteOf s x y n), if_neg (mt (mem_spriteOf s x y n py px).1 h)]

/-- The collision flag says whether the sprite lands on a pixel that was 1 before the instruction (R174, R176). -/
theorem collides_spriteOf_iff :
    collides s.fb (spriteOf s x y n) = true ↔ ∃ py px, Lands s x y n py px ∧ pixel s.fb py px = true := by
  simp only [collides_iff _ _ (nodup_spriteOf s x y n), Prod.exists, mem_spriteOf]

end

/-- VF after a flag write (R21). -/
theorem getV_setFlag_vf (s : State) (flag : Bool) : getV (setFlag s flag) 0xF#4 = if flag then 0x01#8 else 0x00#8 :=
  getV_setV_same s regF _

end Sys2Proof.Machine

/-! ## The obligations -/

namespace Sys2Proof.Proofs

open Sys2Proof.Machine

/-- Settles O51: the framebuffer and VF as the pixels the sprite lands on make them; VF is the one register written. -/
theorem drawRule : Obligations.DrawRule := by
  refine fun x y n s => ⟨decodes_xyn rfl rfl, _, rfl,
    fun _ _ h => pixel_flipPixels_spriteOf_of_lands s x y n h,
    fun _ _ h => pixel_flipPixels_spriteOf_of_not_lands s x y n h,
    fun hit => ?_, fun miss => ?_, otherRegs_setV _ regF _, rfl⟩
  · rw [getV_setFlag_vf, if_pos ((collides_spriteOf_iff s x y n).2 hit)]
  · rw [getV_setFlag_vf, if_neg (mt (collides_spriteOf_iff s x y n).1 miss)]

/-- Settles O50: the framebuffer becomes the clear one, and nothing else is written. -/
theorem clsRule : Obligations.ClsRule := fun _ => ⟨decodes_of_toNat rfl, _, rfl, pixel_clearFb, rfl⟩

end Sys2Proof.Proofs
end

section
/-! SUPPORT. The values that the instructions of `44_index_memory.md` form, as numbers: the sum and the glyph address put in
`I`, and the digits LD B stores. The obligations on them are derived from that, from what the execute phase stores
(`memRead_exec`, `unstoredBytesKeep`), and from what a load of registers reads (`getV_loadRegs`). -/

namespace Sys2Proof.Machine

/-! ## The values put in `I` -/

/-- A sum reduced modulo 4096 fits in `I` (R191). -/
theorem indexPlus_toNat (s : State) (x : Reg) :
    (indexPlus s x).toNat = (s.i.toNat + (getV s x).toNat) % 4096 := by
  simp only [indexPlus, BitVec.toNat_ofNat, Config.memSize]
  omega

/-- A glyph's address fits in `I`, with the font at 0x000 (R42, R192). -/
theorem glyphAddr_toNat (s : State) (x : Reg) : (glyphAddr s x).toNat = 5 * ((getV s x).toNat % 16) := by
  simp only [glyphAddr, BitVec.toNat_ofNat, Config.fontBase, Config.glyphBytes]
  omega

/-! ## The digits LD B stores -/

/-- Each digit fits in its byte (R193). -/
theorem map_toNat_decimalDigits (w : Byte) :
    (decimalDigits w).map BitVec.toNat = [w.toNat / 100, w.toNat / 10 % 10, w.toNat % 10] := by
  have hw := w.isLt
  simp only [decimalDigits, List.map_cons, List.map_nil, BitVec.toNat_ofNat, List.cons.injEq, and_true]
  omega

/-- After LD B,Vx the byte at `I + k` is digit `k` of Vx, for each of the three (R193). -/
theorem memRead_exec_ldBVx {x : Reg} {s t : State} (h : exec (.ldBVx x) s = .next t) {k d : Nat}
    (hd : [(getV s x).toNat / 100, (getV s x).toNat / 10 % 10, (getV s x).toNat % 10][k]? = some d) :
    (memRead t (indexAddr s + k)).toNat = d := by
  rw [← map_toNat_decimalDigits, List.getElem?_map, Option.map_eq_some_iff] at hd
  obtain ⟨w, hget, rfl⟩ := hd
  obtain ⟨hk, rfl⟩ := List.getElem?_eq_some_iff.1 hget
  have hfits : (decimalDigits (getV s x)).length ≤ Config.memSize := show 3 ≤ 4096 by decide
  rw [memRead_exec h, storedBytes, memRead_storeBytes_inside _ _ s k hk hfits]

end Sys2Proof.Machine

/-! ## The obligations -/

namespace Sys2Proof.Proofs

open Sys2Proof.Machine

/-- Settles O53: each writes `I` alone, with a number below 4096. -/
theorem indexRule : Obligations.IndexRule := fun nnn x s =>
  ⟨decodes_nnn rfl rfl, decodes_xss rfl rfl, decodes_xss rfl rfl,
    ⟨_, rfl, addrWord_toNat nnn, rfl⟩, ⟨_, rfl, indexPlus_toNat s x, rfl⟩, ⟨_, rfl, glyphAddr_toNat s x, rfl⟩⟩

/-- Settles O54: the three digits are one block from `I` on, and no other address is stored to. -/
theorem decimalStoreRule : Obligations.DecimalStoreRule := by
  refine fun x s => ⟨decodes_xss rfl rfl, _, rfl, memRead_exec_ldBVx (k := 0) rfl rfl,
    memRead_exec_ldBVx (k := 1) rfl rfl, memRead_exec_ldBVx (k := 2) rfl rfl,
    fun a h0 h1 h2 => unstoredBytesKeep (.ldBVx x) s _ a rfl ?_, storeBytes_frame ..⟩
  simp only [storedAddrs, List.mem_cons, List.not_mem_nil, h0, h1, h2, or_self, not_false_eq_true]

/-- Settles O55: V0 to Vx are one block from `I` on, and no other address is stored to. -/
theorem blockStoreRule : Obligations.BlockStoreRule := by
  refine fun x s => ⟨decodes_xss rfl rfl, _, rfl, fun r hr => ?_,
    fun a ha => unstoredBytesKeep (.ldMemVx x) s _ a rfl fun hmem => ?_, storeBytes_frame ..⟩
  · rw [memRead_exec_ldMemVx rfl hr, BitVec.ofNat_toNat, BitVec.setWidth_eq]
  · obtain ⟨k, hk, heq⟩ := List.mem_map.1 hmem
    exact ha k (Nat.le_of_lt_succ (List.mem_range.1 hk)) heq.symm

/-- Settles O56: the registers up to x are those loaded, each from its own offset. -/
theorem blockLoadRule : Obligations.BlockLoadRule := by
  refine fun x s => ⟨decodes_xss rfl rfl, _, rfl, fun r hr => ?_, fun r hr => ?_, loadRegs_frame ..⟩
  · exact (getV_loadRegs _ _ s r x.isLt).trans (if_pos (Nat.lt_succ_of_le hr))
  · exact (getV_loadRegs _ _ s r x.isLt).trans (if_neg (Nat.not_lt.2 hr))

end Sys2Proof.Proofs
end

section
/-! SUPPORT. The key that SKP and SKNP select, as a number; the skip on a condition that fails; and a whole Running step
whose execute phase raises nothing. The obligations on the instructions of `45_keys_timers.md` are derived from that. -/

namespace Sys2Proof.Machine

/-! ## Key skips -/

/-- The low nibble of Vx is its remainder modulo 16 (R210). -/
theorem keyOperand_eq_ofNat (s : State) (x : Reg) : keyOperand s x = BitVec.ofNat 4 ((getV s x).toNat % 16) := by
  apply BitVec.eq_of_toNat_eq
  simp only [keyOperand, BitVec.extractLsb'_toNat, BitVec.toNat_ofNat, Nat.shiftRight_zero, Nat.reducePow, Nat.mod_mod]

/-- A skip when the condition fails (R212). -/
theorem skipIf_not_pc_toNat (s : State) (c : Bool) :
    (skipIf s (!c)).pc.toNat = (s.pc.toNat + if c then 0 else 2) % 0x10000 := by
  rw [skipIf_pc_toNat]
  cases c <;> rfl

/-! ## A whole step without an error (R105) -/

/-- The timer check follows an execute phase that raised no error (R105). -/
theorem afterExecute_of_not_raised {u : State} (now : Nat) (hu : raised u = false) :
    afterExecute now u = timerCheck u now :=
  if_neg (ne_true_of_eq_false hu)

/-- A Running step whose instruction raises no error is the execute phase and then the timer check. -/
theorem step_of_decoded_not_raised {s u : State} {now : Nat} {rand : Byte} {i : Instr} (hr : Running s)
    (hop : StepsWith s now rand) (hd : decodeWord (fetchWord s s.pc) = .ok i)
    (hu : exec i (executeEntry (takeOp s) rand) = .next u) (hok : raised u = false) :
    step s = .next (timerCheck u now) := by
  rw [step_of_decoded hr hop hd hu, afterExecute_of_not_raised now hok]

end Sys2Proof.Machine

/-! ## The obligations -/

namespace Sys2Proof.Proofs

open Sys2Proof.Machine

/-- Settles O58: both test the same key, SKP for pressed and SKNP for not pressed. -/
theorem keySkipRule : Obligations.KeySkipRule := by
  intro x s
  rw [← keyOperand_eq_ofNat]
  exact ⟨decodes_xss rfl rfl, decodes_xss rfl rfl,
    ⟨_, rfl, rfl, skipIf_pc_toNat s _⟩, ⟨_, rfl, rfl, skipIf_not_pc_toNat s _⟩⟩

/-- Settles O60: the execute phase fills the wait slot and raises nothing, so the step is that and the timer check, which
leaves the slot, `pc`, the registers and the result alone. -/
theorem keyWaitRule : Obligations.KeyWaitRule := by
  refine fun x s => ⟨decodes_xss rfl rfl, rfl, fun now rand hr hop hd => ?_⟩
  have hstep : step s = .next (timerCheck (setWait (executeEntry (takeOp s) rand) (some x)) now) :=
    step_of_decoded_not_raised hr hop hd rfl rfl
  exact ⟨_, hstep, ⟨rfl, hr.2⟩, rfl, rfl, rfl, rfl, rfl, rfl⟩

/-- Settles O59: one register is written with the delay timer, or one timer with Vx. -/
theorem timerAccessRule : Obligations.TimerAccessRule := fun x s =>
  ⟨decodes_xss rfl rfl, decodes_xss rfl rfl, decodes_xss rfl rfl,
    ⟨_, rfl, getV_setV_same s x s.dt, otherRegs_setV s x s.dt, rfl⟩, ⟨_, rfl, rfl⟩, ⟨_, rfl, rfl⟩⟩

end Sys2Proof.Proofs
end

section
/-! SUPPORT. Which error the execute phase raises and with which word (`exec_raise_cases`), the timer check with a tick
due and without, how often a sequence of checks ticks, and the host's operations that are no step. The obligations on
`60_exceptions.md` are derived from that. -/

namespace Sys2Proof.Machine

/-! ## The report of a step error (R231, R232) -/

theorem raised_of_reply {t : State} {info : StepReport} (h : t.reply = .step (.error info)) : raised t = true := by
  simp only [raised, h]

/-- The report that a raise in a step hands to the host. -/
theorem report_of_raiseError {s : State} {rand : Byte} {k : ErrorKind} {w : Word} {info : StepReport}
    (h : (raiseError (executeEntry s rand) k w).reply = .step (.error info)) : info = ⟨k, errorCode k, w, s.pc⟩ := by
  rw [raiseError_reply, stepReport_executeEntry] at h
  cases h
  rfl

/-- Only CALL and RET raise in the execute phase: each one kind, reported with the instruction's own word. -/
theorem exec_raise_cases {i : Instr} {s t : State} (h : exec i s = .next t) (hs : raised s = false)
    (ht : raised t = true) :
    (∃ nnn, i = .call nnn ∧ t = raiseError s .stackOverflow (encode i)) ∨
    (i = .ret ∧ t = raiseError s .stackUnderflow (encode i)) := by
  have hne : raised s ≠ true := ne_true_of_eq_false hs
  cases exec_effect h with
  | error k w hi =>
    obtain rfl | ⟨nnn, rfl⟩ := hi
    · cases hstack : s.stack with
      | nil =>
        rw [exec_ret_of_nil hstack] at h
        exact .inr ⟨rfl, (Host.Outcome.next.inj h).symm⟩
      | cons target rest =>
        rw [exec_ret_of_cons hstack] at h
        exact absurd (congrArg raised (Host.Outcome.next.inj h)) hne
    · by_cases hroom : s.stack.length < Config.stackDepth
      · rw [exec_call_of_lt nnn hroom] at h
        exact absurd (congrArg raised (Host.Outcome.next.inj h)) hne
      · rw [exec_call_of_le nnn (Nat.le_of_not_lt hroom)] at h
        exact .inl ⟨nnn, rfl, (Host.Outcome.next.inj h).symm⟩
  | registers | memory | index | jump | skip | call | ret | delayTimer | soundTimer | clear | draw | keyWait =>
    exact absurd ht hne

/-! ## One timer check (R241 to R243) -/

/-- When a tick is due, with the elapsed time over the integers (R241). -/
theorem tickDue_iff_elapsed (s : State) (now : Nat) :
    tickDue s now = true ↔ ((s.params.timeBaseHz : Nat) : Int) ≤ 60 * max 0 ((now : Int) - (s.lastTick : Int)) := by
  rw [tickDue_iff]
  omega

/-- A timer check with no tick due changes nothing (R242). -/
theorem timerCheck_of_not_due {s : State} {now : Nat} (h : tickDue s now = false) : timerCheck s now = s := by
  simp [timerCheck, h]

/-! ## Sequences of timer checks (R244) -/

theorem tickCount_cons_of_not_due {s : State} {now : Nat} (nows : List Nat) (h : tickDue s now = false) :
    tickCount s (now :: nows) = tickCount s nows := by
  simp [tickCount, timerCheck_of_not_due h, h]

theorem tickCount_cons_of_due {s : State} {now : Nat} (nows : List Nat) (h : tickDue s now = true) :
    tickCount s (now :: nows) = 1 + tickCount (timerCheck s now) nows := by
  simp [tickCount, h]

/-- Ticks are at least `TIME_BASE_HZ / 60` apart, so those after the last one so far fit the time up to the last check. -/
theorem mul_tickCount_le (last : Nat) (nows : List Nat) (s : State) (h : ∀ n ∈ nows, n ≤ last) :
    (s.params.timeBaseHz : Nat) * tickCount s nows ≤ 60 * (last - s.lastTick) := by
  induction nows generalizing s with
  | nil => simp [tickCount]
  | cons now nows ih =>
    obtain ⟨hnow, hnows⟩ := List.forall_mem_cons.1 h
    cases hdue : tickDue s now with
    | false => exact (tickCount_cons_of_not_due nows hdue).symm ▸ ih s hnows
    | true =>
      have hrest := ih (timerCheck s now) hnows
      have hpos := s.params.timeBaseHz.pos
      have hgap := (tickDue_iff s now).1 hdue
      simp only [timerCheck_params, timerCheck_lastTick, hdue, if_true] at hrest
      rw [tickCount_cons_of_due nows hdue, Nat.mul_add, Nat.mul_one]
      omega

/-- Only the first tick can come before `TIME_BASE_HZ / 60` has passed within the interval. -/
theorem mul_tickCount_lt (start S : Nat) (nows : List Nat) (s : State) (h : ∀ n ∈ nows, start ≤ n ∧ n < start + S) :
    (s.params.timeBaseHz : Nat) * tickCount s nows < 60 * S + (s.params.timeBaseHz : Nat) := by
  induction nows generalizing s with
  | nil => simp [tickCount]
  | cons now nows ih =>
    obtain ⟨⟨hstart, hstop⟩, hnows⟩ := List.forall_mem_cons.1 h
    cases hdue : tickDue s now with
    | false => exact (tickCount_cons_of_not_due nows hdue).symm ▸ ih s hnows
    | true =>
      have hrest := mul_tickCount_le (start + S - 1) nows (timerCheck s now)
        fun n hn => Nat.le_sub_one_of_lt (hnows n hn).2
      simp only [timerCheck_params, timerCheck_lastTick, hdue, if_true] at hrest
      rw [tickCount_cons_of_due nows hdue, Nat.mul_add, Nat.mul_one]
      omega

/-- A counter that each tick counts down loses at most one for each tick. -/
theorem counter_le_foldl_timerCheck {counter : State → Byte}
    (hcounter : ∀ s now, counter (timerCheck s now) = if tickDue s now then countDown (counter s) else counter s)
    (nows : List Nat) (s : State) :
    (counter s).toNat ≤ (counter (nows.foldl timerCheck s)).toNat + tickCount s nows := by
  induction nows generalizing s with
  | nil => exact Nat.le_refl _
  | cons now nows ih =>
    rw [List.foldl_cons]
    cases hdue : tickDue s now with
    | false =>
      rw [tickCount_cons_of_not_due nows hdue, timerCheck_of_not_due hdue]
      exact ih s
    | true =>
      have hrest := ih (timerCheck s now)
      rw [hcounter, if_pos hdue, countDown_toNat] at hrest
      rw [tickCount_cons_of_due nows hdue]
      omega

/-! ## A step by the host's next operation (R250) -/

theorem step_eq_perform {s : State} {op : HostOp} (h : nextOp s = op) : step s = perform op (takeOp s) := by
  rw [step, transition, h]

end Sys2Proof.Machine

/-! ## The obligations -/

namespace Sys2Proof.Proofs

open Sys2Proof.Machine

/-- Settles O12: the word is refused, or it is the encoding of the CALL or RET that raised. -/
theorem errorReportNamesTheWord : Obligations.ErrorReportNamesTheWord := by
  intro s t now rand info hr hop h hreply
  obtain ⟨e, hd, rfl⟩ | ⟨i, u, hd, hu, rfl⟩ := running_step_cases hr hop h
  · obtain rfl := report_of_raiseError hreply
    exact ⟨rfl, rfl, .inl ⟨rfl, rfl, fun _ hi => by cases hd.symm.trans hi⟩⟩
  · have hraised : raised u = true := (raised_afterExecute now u).symm.trans (raised_of_reply hreply)
    rw [afterExecute_of_raised now hraised] at hreply
    have hword : encode i = fetchWord s s.pc := encode_of_decodeWord hd
    obtain ⟨nnn, rfl, rfl⟩ | ⟨rfl, rfl⟩ := exec_raise_cases hu rfl hraised <;>
      obtain rfl := report_of_raiseError hreply
    · exact ⟨hword, rfl, .inr (.inl ⟨rfl, rfl, nnn, decodeWord_encode _⟩)⟩
    · exact ⟨hword, rfl, .inr (.inr ⟨rfl, rfl, decodeWord_encode _⟩)⟩

/-- Settles O16: a tick that is due counts both timers down and records the time; one that is not changes nothing. -/
theorem timerCheckTicks : Obligations.TimerCheckTicks := by
  refine fun s now => ⟨fun hdue => ?_, fun hearly => ?_, timerCheck_frame s now⟩
  · rw [← tickDue_iff_elapsed] at hdue
    simp only [timerCheck_dt, timerCheck_st, timerCheck_lastTick, hdue, if_true, countDown_toNat, and_self]
  · rw [← Int.not_le, ← tickDue_iff_elapsed, Bool.not_eq_true] at hearly
    exact timerCheck_of_not_due hearly

/-- Settles O17: the ticks fit the interval with less than one to spare, and each costs a counter at most one. -/
theorem tickRateIsBounded : Obligations.TickRateIsBounded := by
  intro s start S nows hnows
  refine ⟨?_, counter_le_foldl_timerCheck timerCheck_dt nows s, counter_le_foldl_timerCheck timerCheck_st nows s⟩
  rw [Nat.le_div_iff_mul_le s.params.timeBaseHz.pos, Nat.mul_comm]
  exact Nat.le_sub_one_of_lt (mul_tickCount_lt start S nows s hnows)

/-- Settles O23: the one key written reads back, and every other key as before. -/
theorem setKeyWritesOneFlag : Obligations.SetKeyWritesOneFlag := by
  intro s k pressed hop
  have hget : ∀ j, keyPressed (setKey (takeOp s) k pressed) j = if j = k then pressed else keyPressed s j :=
    fun j => keyPressed_setKey (takeOp s) k j pressed
  exact ⟨_, step_eq_perform hop, (hget k).trans (if_pos rfl), fun j hj => (hget j).trans (if_neg hj), rfl⟩

/-- Settles O24: each of the three operations sets the reply and nothing else. -/
theorem hostReadsChangeNothing : Obligations.HostReadsChangeNothing := fun s =>
  ⟨fun hop => ⟨_, s.fb, step_eq_perform hop, rfl, fun _ _ => rfl⟩, step_eq_perform, step_eq_perform⟩

end Sys2Proof.Proofs
end

section
/-! SUPPORT. A timer check with a tick due as numbers, a load in both of its cases, what a waiting core keeps, and where a
jump to itself leads. The obligations of `70_reset_and_hazards.md` are derived from that. -/

namespace Sys2Proof.Machine

/-! ## A timer check with a tick due (R242) -/

section
variable {s : State} {now : Nat}

theorem timerCheck_dt_toNat_of_due (h : tickDue s now = true) : (timerCheck s now).dt.toNat = s.dt.toNat - 1 := by
  rw [timerCheck_dt, if_pos h, countDown_toNat]

theorem timerCheck_st_toNat_of_due (h : tickDue s now = true) : (timerCheck s now).st.toNat = s.st.toNat - 1 := by
  rw [timerCheck_st, if_pos h, countDown_toNat]

theorem timerCheck_lastTick_of_due (h : tickDue s now = true) : (timerCheck s now).lastTick = now :=
  if_pos h

end

/-! ## Loading a program (R273, R274) -/

/-- Bytes that fit are stored as one block. -/
theorem loadProgramOp_of_fits {s : State} {bytes : List Byte} (h : Config.programBase + bytes.length ≤ Config.memSize) :
    loadProgramOp bytes s = setReply (storeBytes Config.programBase bytes s) .loaded :=
  if_pos h

/-- Of bytes that do not fit none is stored. -/
theorem loadProgramOp_of_too_large {s : State} {bytes : List Byte}
    (h : Config.memSize < Config.programBase + bytes.length) :
    loadProgramOp bytes s = setReply s (.tooLarge ⟨.programTooLarge, errorCode .programTooLarge, bytes.length⟩) :=
  if_neg (Nat.not_le.2 h)

/-- A block that ends within memory does not wrap, so an address below 0x1000 outside it keeps its byte. -/
theorem memRead_storeBytes_beside {s : State} {bytes : List Byte} {base a : Nat}
    (hfit : base + bytes.length ≤ Config.memSize) (ha : a < Config.memSize) (hout : a < base ∨ base + bytes.length ≤ a) :
    memRead (storeBytes base bytes s) a = memRead s a := by
  refine memRead_storeBytes_outside bytes base s a fun k hk => ?_
  rw [maskAddr, maskAddr, Nat.mod_eq_of_lt ha, Nat.mod_eq_of_lt (by omega)]
  omega

/-! ## Waiting for a key (R217, R272) -/

/-- A waiting core with no key pressed keeps these pieces of state through every host operation but a reset. -/
theorem OpEffect.keeps_waiting {op : HostOp} {s t : State} {x : Reg} (h : OpEffect s op t) (hx : WaitingFor s x)
    (hkeys : ∀ k, keyPressed s k = false) (hreset : ∀ now, op ≠ .reset now) :
    WaitingFor t x ∧ t.pc = s.pc ∧ t.v = s.v ∧ t.i = s.i ∧ t.stack = s.stack ∧ t.fb = s.fb := by
  obtain ⟨hwait, hhalted⟩ := id hx
  cases h with
  | reset now => exact absurd rfl (hreset now)
  | load bytes _ =>
    rw [storeBytes_frame]
    exact ⟨hx, rfl, rfl, rfl, rfl, rfl⟩
  | stepResolved _ _ _ k _ hk => cases ((leastKey_eq_none s).2 hkeys).symm.trans hk
  | stepHalted _ _ info hh => cases hhalted.symm.trans hh
  | stepUnknown _ _ _ hr | stepExecuted _ _ _ _ hr => cases hr.1.symm.trans hwait
  | loadTooLarge | readFramebuffer | setKey | delayTimer | soundTimer | stepWaiting =>
    exact ⟨hx, rfl, rfl, rfl, rfl, rfl⟩

/-! ## A jump to itself (R282) -/

/-- The 12 bits of an address below 0x1000 extend to the address again. -/
theorem addrWord_setWidth {w : Word} (h : w.toNat < 0x1000) : addrWord (w.setWidth 12) = w := by
  apply BitVec.eq_of_toNat_eq
  rw [addrWord_toNat, BitVec.toNat_setWidth, Nat.mod_eq_of_lt h]

/-- A jump to where the instruction was fetched from undoes the advance of `pc`. -/
theorem exec_jp_to_self {s : State} (rand : Byte) (h : s.pc.toNat < 0x1000) :
    exec (.jp (s.pc.setWidth 12)) (executeEntry s rand) = .next { s with rand := rand, reply := .step .ok } := by
  rw [exec, execJp, addrWord_setWidth h]
  rfl

/-- The word at a self-jump is the jump to `pc`. -/
theorem decodeWord_at_selfJump {s : State} (h : AtSelfJump s) :
    decodeWord (fetchWord s s.pc) = .ok (.jp (s.pc.setWidth 12)) := by
  obtain ⟨-, hlt, hword⟩ := h
  have hdecodes : Decodes (0x1000 + (s.pc.setWidth 12).toNat) (.jp (s.pc.setWidth 12)) := decodes_nnn rfl rfl
  rwa [BitVec.toNat_setWidth, Nat.mod_eq_of_lt hlt, ← hword, Decodes, BitVec.ofNat_toNat, BitVec.setWidth_eq]
    at hdecodes

end Sys2Proof.Machine

/-! ## The obligations -/

namespace Sys2Proof.Proofs

open Sys2Proof.Machine

/-- Settles O18: none of the three raises an error, so the step is the execute phase and then the tick, which is due there
too because the execute phase leaves the time of the last tick alone. -/
theorem timerInstructionsThenTick : Obligations.TimerInstructionsThenTick := by
  intro s now rand x hr hop htime
  have hdue : tickDue s now = true := (tickDue_iff s now).2 htime
  refine ⟨fun hd => ⟨_, step_of_decoded_not_raised hr hop hd rfl rfl, ?_⟩,
    fun hd => ⟨_, step_of_decoded_not_raised hr hop hd rfl rfl, ?_⟩,
    fun hd => ⟨_, step_of_decoded_not_raised hr hop hd rfl rfl, ?_⟩⟩
  · exact ⟨timerCheck_dt_toNat_of_due hdue, timerCheck_lastTick_of_due hdue⟩
  · exact ⟨timerCheck_st_toNat_of_due hdue, timerCheck_lastTick_of_due hdue⟩
  · exact ⟨getV_setV_same _ x s.dt, timerCheck_dt_toNat_of_due hdue⟩

/-- Settles O21: the bytes are one block that does not wrap. -/
theorem loadProgramInstalls : Obligations.LoadProgramInstalls := by
  intro s bytes hop hfit
  have hlen : bytes.length ≤ Config.memSize := Nat.le_trans (Nat.le_add_left _ _) hfit
  have hstep : step s = .next (setReply (storeBytes 0x200 bytes (takeOp s)) .loaded) :=
    (step_eq_perform hop).trans (congrArg Host.Outcome.next (loadProgramOp_of_fits hfit))
  refine ⟨_, hstep, ?_, fun k hk => ?_, fun a ha hout => ?_⟩
  · rw [storeBytes_frame]
    rfl
  · exact memRead_storeBytes_inside bytes 0x200 (takeOp s) k hk hlen
  · exact memRead_storeBytes_beside (s := takeOp s) hfit ha hout

/-- Settles O26: each effect of a host operation but a reset keeps a wait that no pressed key ends. -/
theorem waitEndsOnlyByKeyOrReset : Obligations.WaitEndsOnlyByKeyOrReset :=
  fun _ _ _ hx hkeys hreset h => (step_effect h).keeps_waiting hx hkeys hreset

/-- Settles O42: the jump leads back to `pc`, and the timer check that follows touches neither `pc` nor memory. -/
theorem selfJumpRepeats : Obligations.SelfJumpRepeats := by
  intro s now rand hself hop
  obtain ⟨hr, hlt, -⟩ := id hself
  have hstep : step s = .next (timerCheck { takeOp s with rand := rand, reply := .step .ok } now) :=
    step_of_decoded_not_raised hr hop (decodeWord_at_selfJump hself) (exec_jp_to_self (s := takeOp s) rand hlt) rfl
  exact ⟨_, hstep, rfl, hself⟩

/-- Settles O22: the load sets the reply and nothing else. -/
theorem loadProgramTooLarge : Obligations.LoadProgramTooLarge := fun _ _ hop hbig =>
  (step_eq_perform hop).trans (congrArg Host.Outcome.next (loadProgramOp_of_too_large hbig))

end Sys2Proof.Proofs
end
